-- ==== Sys2Proof/Word.lean ====
section
/-! DEFINITION. The word types of the block: bytes, 16-bit register pairs, 24-bit A-bus addresses
(spec 20_memory R90, R98). -/

namespace Sys2Proof

/-- One byte: the only access width of the bus (R98). -/
abbrev Byte := BitVec 8

/-- A 16-bit register or counter, a pair of byte registers (R97). -/
abbrev Half := BitVec 16

/-- An A-bus address: bank in bits 23:16, offset in bits 15:0 (R90, R91). -/
abbrev Addr := BitVec 24

end Sys2Proof
end

