-- ==== Sys2Proof/Syntax.lean ====
section
/-! DEFINITION. The four word formats of the block and every row of spec/opcode_table.json as one
constructor of `Instr` (spec 30_encoding R120 to R127). -/

namespace Sys2Proof

/-- The four word formats (R120). -/
inductive Format where
  | busop   -- 36 bits: one CPU bus-operation request
  | mmio    -- 25 bits: direction and address of an access
  | cmd     -- 64 bits: a scheduler or host operation
  | event   -- 4 bits: an event callback
deriving DecidableEq, Repr, Inhabited

/-- One word of the interface: its format and its bits, bit 0 the least significant (R8, R120). -/
structure Packet where
  format : Format
  bits   : BitVec 64
deriving DecidableEq, Repr, Inhabited

/-- The five events of the scheduler (R32). -/
inductive EventId where
  | irq | video | dma | stall | joy
deriving DecidableEq, Repr, Inhabited

/-- A DMA channel number, 0 to 7 (R40 to R47; `N_CH` of R5). -/
abbrev Chan := Fin 8

/-- What the CPU stepping engine presents to the block (R60): the wanted bus operation as a BUSOP word
(`cpuNextOp`, R180), its interrupt-disable flag (`cpuI`), and the address of the instruction in progress
(`cpuInstrAddr`). Whether the operation is the opcode fetch of a new instruction (`cpuAtFetch`) is read off the
word: `CpuRequest.atFetch`. -/
structure CpuRequest where
  word       : BitVec 36
  irqDisable : Bool
  instrAddr  : Addr
deriving DecidableEq, Repr, Inhabited

/-- The two interrupts of the block, as the CPU takes one at an instruction boundary (R423, R431). -/
inductive Interrupt where
  | nmi | irq
deriving DecidableEq, Repr, Inhabited

/-- What `RouterRead` answers (R12). -/
inductive RouterRead where
  | mapped (v : Byte)
  | unmapped
  | fatalChip
deriving DecidableEq, Repr, Inhabited

/-- What `RouterWrite` answers (R12). -/
inductive RouterWrite where
  | done
  | unmapped
  | fatalChip
deriving DecidableEq, Repr, Inhabited

/-- The registers of the block window at fixed offsets (R124). -/
inductive PortReg where
  | slhv | ophct | opvct | stat78 | nmitimen | wrio | htimel | htimeh | vtimel | vtimeh | mdmaen | hdmaen | memsel
  | rdnmi | timeup | hvbjoy | joy1l | joy1h | joy2l | joy2h | joy3l | joy3h | joy4l | joy4h
deriving DecidableEq, Repr

/-- The byte registers of one channel block, register numbers 0 to 15 of `$43cN` (R124, R125):
`unusedMirror` is `$43cF`, the second address of UNUSED; `gapC`, `gapD`, `gapE` are the unmapped
`$43cC..$43cE`. -/
inductive ChanReg where
  | dmap | bbad | a1tl | a1th | a1b | dasl | dash | dasb | a2al | a2ah | ntrl | unused
  | unusedMirror | gapC | gapD | gapE
deriving DecidableEq, Repr

/-- A place of the block window (R92, R124): a port, a channel register, or an offset of the tail
`$4380..$43FF`, by its low seven bits. -/
inductive Reg where
  | port (p : PortReg)
  | chan (c : Chan) (r : ChanReg)
  | tail (low : BitVec 7)
deriving DecidableEq, Repr

/-- Every operation of the opcode table, one constructor a row. BUSOP rows carry the address and, for a
store, the byte (R121). MMIO rows carry the bank (its bit 6 is 0, R91), a channel row also the channel,
a tail row the low seven offset bits (R123, R125). CMD rows carry the event and the argument they use
(R126). EVENT rows are the event ids (R127). -/
inductive Instr where
  | fetch (addr : Addr)
  | readOperand (addr : Addr)
  | memoryLoad (addr : Addr)
  | memoryStore (addr : Addr) (data : Byte)
  | dummyRead (addr : Addr)
  | idle
  | halt
  | stop
  | nmiAck
  | rSlhv (bank : Byte)
  | wSlhv (bank : Byte)
  | rOphct (bank : Byte)
  | wOphct (bank : Byte)
  | rOpvct (bank : Byte)
  | wOpvct (bank : Byte)
  | rStat78 (bank : Byte)
  | wStat78 (bank : Byte)
  | rNmitimen (bank : Byte)
  | wNmitimen (bank : Byte)
  | rWrio (bank : Byte)
  | wWrio (bank : Byte)
  | rHtimel (bank : Byte)
  | wHtimel (bank : Byte)
  | rHtimeh (bank : Byte)
  | wHtimeh (bank : Byte)
  | rVtimel (bank : Byte)
  | wVtimel (bank : Byte)
  | rVtimeh (bank : Byte)
  | wVtimeh (bank : Byte)
  | rMdmaen (bank : Byte)
  | wMdmaen (bank : Byte)
  | rHdmaen (bank : Byte)
  | wHdmaen (bank : Byte)
  | rMemsel (bank : Byte)
  | wMemsel (bank : Byte)
  | rRdnmi (bank : Byte)
  | wRdnmi (bank : Byte)
  | rTimeup (bank : Byte)
  | wTimeup (bank : Byte)
  | rHvbjoy (bank : Byte)
  | wHvbjoy (bank : Byte)
  | rJoy1l (bank : Byte)
  | wJoy1l (bank : Byte)
  | rJoy1h (bank : Byte)
  | wJoy1h (bank : Byte)
  | rJoy2l (bank : Byte)
  | wJoy2l (bank : Byte)
  | rJoy2h (bank : Byte)
  | wJoy2h (bank : Byte)
  | rJoy3l (bank : Byte)
  | wJoy3l (bank : Byte)
  | rJoy3h (bank : Byte)
  | wJoy3h (bank : Byte)
  | rJoy4l (bank : Byte)
  | wJoy4l (bank : Byte)
  | rJoy4h (bank : Byte)
  | wJoy4h (bank : Byte)
  | rDmap (bank : Byte) (c : Chan)
  | wDmap (bank : Byte) (c : Chan)
  | rBbad (bank : Byte) (c : Chan)
  | wBbad (bank : Byte) (c : Chan)
  | rA1tl (bank : Byte) (c : Chan)
  | wA1tl (bank : Byte) (c : Chan)
  | rA1th (bank : Byte) (c : Chan)
  | wA1th (bank : Byte) (c : Chan)
  | rA1b (bank : Byte) (c : Chan)
  | wA1b (bank : Byte) (c : Chan)
  | rDasl (bank : Byte) (c : Chan)
  | wDasl (bank : Byte) (c : Chan)
  | rDash (bank : Byte) (c : Chan)
  | wDash (bank : Byte) (c : Chan)
  | rDasb (bank : Byte) (c : Chan)
  | wDasb (bank : Byte) (c : Chan)
  | rA2al (bank : Byte) (c : Chan)
  | wA2al (bank : Byte) (c : Chan)
  | rA2ah (bank : Byte) (c : Chan)
  | wA2ah (bank : Byte) (c : Chan)
  | rNtrl (bank : Byte) (c : Chan)
  | wNtrl (bank : Byte) (c : Chan)
  | rUnused (bank : Byte) (c : Chan)
  | wUnused (bank : Byte) (c : Chan)
  | rUnusedMirror (bank : Byte) (c : Chan)
  | wUnusedMirror (bank : Byte) (c : Chan)
  | rGapC (bank : Byte) (c : Chan)
  | wGapC (bank : Byte) (c : Chan)
  | rGapD (bank : Byte) (c : Chan)
  | wGapD (bank : Byte) (c : Chan)
  | rGapE (bank : Byte) (c : Chan)
  | wGapE (bank : Byte) (c : Chan)
  | rTail (bank : Byte) (low : BitVec 7)
  | wTail (bank : Byte) (low : BitVec 7)
  | schedule (ev : EventId) (delay : BitVec 48)
  | reschedule (ev : EventId) (delay : BitVec 48)
  | deschedule (ev : EventId)
  | advance (cycles : BitVec 48)
  | anyEventDue
  | stepOnce
  | scheduleAt (ev : EventId) (time : BitVec 48)
  | reset
  | runFrame
  | runInstruction
  | setKey (bit : BitVec 4) (port : BitVec 1) (pressed : Bool)
  | pause
  | resume
  | isPaused
  | evIrq
  | evVideo
  | evDma
  | evStall
  | evJoy
deriving DecidableEq, Repr

end Sys2Proof
end

