-- ==== Sys2Proof/WellFormed.lean ====
section
/-! DEFINITION. The checks an instruction's operands must pass to be a word of its format
(spec 30_encoding R123, R146). -/

namespace Sys2Proof

/-- R91: a system bank is one with bit 6 clear (`$00..$3F` and `$80..$BF`). -/
def systemBank (bank : Byte) : Bool := !bank.getLsbD 6

/-- R146: a SET_KEY button bit below 4 spells no operation. -/
def keyBitOk (bit : BitVec 4) : Bool := 4 ≤ bit.toNat

/-- An instruction is well formed when some word of its format spells it: an MMIO access lies in a
system bank (R123) and a SET_KEY names one of the twelve buttons (R146). -/
def Instr.wellFormed : Instr → Bool
  | .fetch _ | .readOperand _ | .memoryLoad _ | .memoryStore _ _ | .dummyRead _ => true
  | .idle | .halt | .stop | .nmiAck => true
  | .rSlhv bank | .wSlhv bank | .rOphct bank | .wOphct bank | .rOpvct bank | .wOpvct bank => systemBank bank
  | .rStat78 bank | .wStat78 bank | .rNmitimen bank | .wNmitimen bank | .rWrio bank | .wWrio bank => systemBank bank
  | .rHtimel bank | .wHtimel bank | .rHtimeh bank | .wHtimeh bank | .rVtimel bank | .wVtimel bank => systemBank bank
  | .rVtimeh bank | .wVtimeh bank | .rMdmaen bank | .wMdmaen bank | .rHdmaen bank | .wHdmaen bank => systemBank bank
  | .rMemsel bank | .wMemsel bank | .rRdnmi bank | .wRdnmi bank | .rTimeup bank | .wTimeup bank => systemBank bank
  | .rHvbjoy bank | .wHvbjoy bank | .rJoy1l bank | .wJoy1l bank | .rJoy1h bank | .wJoy1h bank => systemBank bank
  | .rJoy2l bank | .wJoy2l bank | .rJoy2h bank | .wJoy2h bank | .rJoy3l bank | .wJoy3l bank => systemBank bank
  | .rJoy3h bank | .wJoy3h bank | .rJoy4l bank | .wJoy4l bank | .rJoy4h bank | .wJoy4h bank => systemBank bank
  | .rDmap bank _ | .wDmap bank _ | .rBbad bank _ | .wBbad bank _ | .rA1tl bank _ | .wA1tl bank _ => systemBank bank
  | .rA1th bank _ | .wA1th bank _ | .rA1b bank _ | .wA1b bank _ | .rDasl bank _ | .wDasl bank _ => systemBank bank
  | .rDash bank _ | .wDash bank _ | .rDasb bank _ | .wDasb bank _ | .rA2al bank _ | .wA2al bank _ => systemBank bank
  | .rA2ah bank _ | .wA2ah bank _ | .rNtrl bank _ | .wNtrl bank _ | .rUnused bank _ | .wUnused bank _ => systemBank bank
  | .rUnusedMirror bank _ | .wUnusedMirror bank _ | .rGapC bank _ | .wGapC bank _ | .rGapD bank _ | .wGapD bank _ => systemBank bank
  | .rGapE bank _ | .wGapE bank _ => systemBank bank
  | .rTail bank _ | .wTail bank _ => systemBank bank
  | .schedule _ _ | .reschedule _ _ | .deschedule _ | .advance _ | .anyEventDue | .stepOnce => true
  | .scheduleAt _ _ | .reset | .runFrame | .runInstruction => true
  | .setKey bit _ _ => keyBitOk bit
  | .pause | .resume | .isPaused => true
  | .evIrq | .evVideo | .evDma | .evStall | .evJoy => true

end Sys2Proof
end

