-- ==== Sys2Proof/Decode.lean ====
section
/-! DEFINITION. Decoding of the four word formats, total and refusing by name, and after it the encoder
(spec 30_encoding R120 to R127, R146; opcode_table.json). -/

namespace Sys2Proof

/-! ## Fields -/

/-- The field of `width` bits of `w` that starts at bit `lo`, as an unsigned number (R8). -/
def bitField (w : BitVec 64) (lo width : Nat) : Nat := w.toNat / 2 ^ lo % 2 ^ width

/-- The number of bits of a word of each format (R120). -/
def Format.width : Format → Nat
  | .busop => 36
  | .mmio => 25
  | .cmd => 64
  | .event => 4

/-! ## The register map -/

/-- The offset of each port (R124). -/
def PortReg.offset : PortReg → Nat
  | .slhv => 0x2137
  | .ophct => 0x213C
  | .opvct => 0x213D
  | .stat78 => 0x213F
  | .nmitimen => 0x4200
  | .wrio => 0x4201
  | .htimel => 0x4207
  | .htimeh => 0x4208
  | .vtimel => 0x4209
  | .vtimeh => 0x420A
  | .mdmaen => 0x420B
  | .hdmaen => 0x420C
  | .memsel => 0x420D
  | .rdnmi => 0x4210
  | .timeup => 0x4211
  | .hvbjoy => 0x4212
  | .joy1l => 0x4218
  | .joy1h => 0x4219
  | .joy2l => 0x421A
  | .joy2h => 0x421B
  | .joy3l => 0x421C
  | .joy3h => 0x421D
  | .joy4l => 0x421E
  | .joy4h => 0x421F

/-- The register number of each channel register: the low four offset bits (R125). -/
def ChanReg.number : ChanReg → Nat
  | .dmap => 0
  | .bbad => 1
  | .a1tl => 2
  | .a1th => 3
  | .a1b => 4
  | .dasl => 5
  | .dash => 6
  | .dasb => 7
  | .a2al => 8
  | .a2ah => 9
  | .ntrl => 10
  | .unused => 11
  | .unusedMirror => 15
  | .gapC => 12
  | .gapD => 13
  | .gapE => 14

/-- Every port of R124, in the order of the register map. -/
def portRegs : List PortReg :=
  [.slhv, .ophct, .opvct, .stat78, .nmitimen, .wrio, .htimel, .htimeh, .vtimel, .vtimeh, .mdmaen, .hdmaen, .memsel,
   .rdnmi, .timeup, .hvbjoy, .joy1l, .joy1h, .joy2l, .joy2h, .joy3l, .joy3h, .joy4l, .joy4h]

/-- The channel register of a register number (R125). -/
def chanRegs : List ChanReg :=
  [.dmap, .bbad, .a1tl, .a1th, .a1b, .dasl, .dash, .dasb, .a2al, .a2ah, .ntrl, .unused, .unusedMirror, .gapC, .gapD, .gapE]

/-- The place of the block window at an offset of a system bank, if there is one (R92, R124, R125). -/
def regOfOffset (offset : Nat) : Option Reg :=
  if 0x4300 ≤ offset ∧ offset < 0x4380 then
    (chanRegs.find? fun r => r.number == offset % 16).map (Reg.chan (Fin.ofNat 8 (offset / 16)))
  else if 0x4380 ≤ offset ∧ offset < 0x4400 then
    some (.tail (BitVec.ofNat 7 offset))
  else
    (portRegs.find? fun p => p.offset == offset).map Reg.port

/-- The offset of a place of the block window (R124, R125). -/
def Reg.offset : Reg → Nat
  | .port p => p.offset
  | .chan c r => 0x4300 + 16 * c.val + r.number
  | .tail low => 0x4380 + low.toNat

/-- The place of the block window an A-bus address reaches, if any: a system bank and an offset of the
map (R91, R92). -/
def windowReg (addr : Addr) : Option Reg :=
  if addr.getLsbD 22 then none else regOfOffset (addr.toNat % 2 ^ 16)

/-! ## Decoding -/

/-- Why a word is no instruction (R146), or, for MMIO, that the access is the router's (R123). -/
inductive DecodeError where
  | tooWide                                    -- a bit above the format's width is set
  | badKind (kind : Nat)                       -- BUSOP kind 9 to 15
  | badOp (op : Nat)                           -- CMD op not in R126
  | reservedBits (bits : Nat)                  -- CMD bits 51:48 nonzero
  | badEvent (id : Nat)                        -- an event id 5 to 15
  | badKeyBit (bit : Nat)                      -- SET_KEY button bit below 4
  | outsideWindow (write : Bool) (addr : Addr) -- MMIO: no row, the router's access
deriving DecidableEq, Repr

/-- The event of an id (R127). -/
def eventOfId : Nat → Option EventId
  | 0 => some .irq
  | 1 => some .video
  | 2 => some .dma
  | 3 => some .stall
  | 4 => some .joy
  | _ => none

/-- BUSOP (R121, R122). -/
def decodeBusop (w : BitVec 64) : Except DecodeError Instr :=
  let addr := BitVec.ofNat 24 (bitField w 8 24)
  match bitField w 32 4 with
  | 0 => .ok (.fetch addr)
  | 1 => .ok (.readOperand addr)
  | 2 => .ok (.memoryLoad addr)
  | 3 => .ok (.memoryStore addr (BitVec.ofNat 8 (bitField w 0 8)))
  | 4 => .ok (.dummyRead addr)
  | 5 => .ok .idle
  | 6 => .ok .halt
  | 7 => .ok .stop
  | 8 => .ok .nmiAck
  | k => .error (.badKind k)

/-- The MMIO read row of a place of the window. -/
def readRow (bank : Byte) : Reg → Instr
  | .port .slhv => .rSlhv bank
  | .port .ophct => .rOphct bank
  | .port .opvct => .rOpvct bank
  | .port .stat78 => .rStat78 bank
  | .port .nmitimen => .rNmitimen bank
  | .port .wrio => .rWrio bank
  | .port .htimel => .rHtimel bank
  | .port .htimeh => .rHtimeh bank
  | .port .vtimel => .rVtimel bank
  | .port .vtimeh => .rVtimeh bank
  | .port .mdmaen => .rMdmaen bank
  | .port .hdmaen => .rHdmaen bank
  | .port .memsel => .rMemsel bank
  | .port .rdnmi => .rRdnmi bank
  | .port .timeup => .rTimeup bank
  | .port .hvbjoy => .rHvbjoy bank
  | .port .joy1l => .rJoy1l bank
  | .port .joy1h => .rJoy1h bank
  | .port .joy2l => .rJoy2l bank
  | .port .joy2h => .rJoy2h bank
  | .port .joy3l => .rJoy3l bank
  | .port .joy3h => .rJoy3h bank
  | .port .joy4l => .rJoy4l bank
  | .port .joy4h => .rJoy4h bank
  | .chan c .dmap => .rDmap bank c
  | .chan c .bbad => .rBbad bank c
  | .chan c .a1tl => .rA1tl bank c
  | .chan c .a1th => .rA1th bank c
  | .chan c .a1b => .rA1b bank c
  | .chan c .dasl => .rDasl bank c
  | .chan c .dash => .rDash bank c
  | .chan c .dasb => .rDasb bank c
  | .chan c .a2al => .rA2al bank c
  | .chan c .a2ah => .rA2ah bank c
  | .chan c .ntrl => .rNtrl bank c
  | .chan c .unused => .rUnused bank c
  | .chan c .unusedMirror => .rUnusedMirror bank c
  | .chan c .gapC => .rGapC bank c
  | .chan c .gapD => .rGapD bank c
  | .chan c .gapE => .rGapE bank c
  | .tail low => .rTail bank low

/-- The MMIO write row of a place of the window. -/
def writeRow (bank : Byte) : Reg → Instr
  | .port .slhv => .wSlhv bank
  | .port .ophct => .wOphct bank
  | .port .opvct => .wOpvct bank
  | .port .stat78 => .wStat78 bank
  | .port .nmitimen => .wNmitimen bank
  | .port .wrio => .wWrio bank
  | .port .htimel => .wHtimel bank
  | .port .htimeh => .wHtimeh bank
  | .port .vtimel => .wVtimel bank
  | .port .vtimeh => .wVtimeh bank
  | .port .mdmaen => .wMdmaen bank
  | .port .hdmaen => .wHdmaen bank
  | .port .memsel => .wMemsel bank
  | .port .rdnmi => .wRdnmi bank
  | .port .timeup => .wTimeup bank
  | .port .hvbjoy => .wHvbjoy bank
  | .port .joy1l => .wJoy1l bank
  | .port .joy1h => .wJoy1h bank
  | .port .joy2l => .wJoy2l bank
  | .port .joy2h => .wJoy2h bank
  | .port .joy3l => .wJoy3l bank
  | .port .joy3h => .wJoy3h bank
  | .port .joy4l => .wJoy4l bank
  | .port .joy4h => .wJoy4h bank
  | .chan c .dmap => .wDmap bank c
  | .chan c .bbad => .wBbad bank c
  | .chan c .a1tl => .wA1tl bank c
  | .chan c .a1th => .wA1th bank c
  | .chan c .a1b => .wA1b bank c
  | .chan c .dasl => .wDasl bank c
  | .chan c .dash => .wDash bank c
  | .chan c .dasb => .wDasb bank c
  | .chan c .a2al => .wA2al bank c
  | .chan c .a2ah => .wA2ah bank c
  | .chan c .ntrl => .wNtrl bank c
  | .chan c .unused => .wUnused bank c
  | .chan c .unusedMirror => .wUnusedMirror bank c
  | .chan c .gapC => .wGapC bank c
  | .chan c .gapD => .wGapD bank c
  | .chan c .gapE => .wGapE bank c
  | .tail low => .wTail bank low

/-- MMIO (R123): bit 24 is the direction, bits 23:0 the address. -/
def decodeMmio (w : BitVec 64) : Except DecodeError Instr :=
  let addr : Addr := BitVec.ofNat 24 (bitField w 0 24)
  let bank : Byte := BitVec.ofNat 8 (bitField w 16 8)
  let write : Bool := bitField w 24 1 == 1
  match windowReg addr with
  | some r => .ok (if write then writeRow bank r else readRow bank r)
  | none => .error (.outsideWindow write addr)

/-- CMD (R126): op in bits 63:56, event in bits 55:52, bits 51:48 zero, argument in bits 47:0. The event
field is read only by the ops that take an event; an id of 5 to 15 there is illegal (R127; log 19). -/
def decodeCmd (w : BitVec 64) : Except DecodeError Instr :=
  let arg : BitVec 48 := BitVec.ofNat 48 (bitField w 0 48)
  let withEvent (f : EventId → Instr) : Except DecodeError Instr :=
    match eventOfId (bitField w 52 4) with
    | some e => .ok (f e)
    | none => .error (.badEvent (bitField w 52 4))
  if bitField w 48 4 ≠ 0 then .error (.reservedBits (bitField w 48 4))
  else match bitField w 56 8 with
  | 0x01 => withEvent fun e => .schedule e arg
  | 0x02 => withEvent fun e => .reschedule e arg
  | 0x03 => withEvent fun e => .deschedule e
  | 0x04 => .ok (.advance arg)
  | 0x05 => .ok .anyEventDue
  | 0x06 => .ok .stepOnce
  | 0x07 => withEvent fun e => .scheduleAt e arg
  | 0x10 => .ok .reset
  | 0x11 => .ok .runFrame
  | 0x12 => .ok .runInstruction
  | 0x13 =>
    let bit : BitVec 4 := BitVec.ofNat 4 (bitField w 8 4)
    if keyBitOk bit then .ok (.setKey bit (BitVec.ofNat 1 (bitField w 4 1)) (bitField w 0 1 == 1))
    else .error (.badKeyBit bit.toNat)
  | 0x14 => .ok .pause
  | 0x15 => .ok .resume
  | 0x16 => .ok .isPaused
  | op => .error (.badOp op)

/-- EVENT (R127). -/
def decodeEvent (w : BitVec 64) : Except DecodeError Instr :=
  match eventOfId (bitField w 0 4) with
  | some .irq => .ok .evIrq
  | some .video => .ok .evVideo
  | some .dma => .ok .evDma
  | some .stall => .ok .evStall
  | some .joy => .ok .evJoy
  | none => .error (.badEvent (bitField w 0 4))

/-- The instruction a word spells, or why it spells none. A word with a bit set above its format's width
is refused (log 20). -/
def decode (p : Packet) : Except DecodeError Instr :=
  if 2 ^ p.format.width ≤ p.bits.toNat then .error .tooWide
  else match p.format with
  | .busop => decodeBusop p.bits
  | .mmio => decodeMmio p.bits
  | .cmd => decodeCmd p.bits
  | .event => decodeEvent p.bits

/-- The format of a table row by the whole bytes its bits take: EVENT 1, MMIO 4, BUSOP 5, CMD 8
(R120). -/
def formatOfBits (nbits : Nat) : Format :=
  if nbits ≤ 8 then .event
  else if nbits ≤ 32 then .mmio
  else if nbits ≤ 40 then .busop
  else .cmd

/-- The packet of a word of the opcode table, `nbits` wide, bit 0 the least significant. The block stores
no instruction in memory, so a word has no byte layout: it is its bits (R120; log 29). -/
def tablePacket (nbits w : Nat) : Packet := ⟨formatOfBits nbits, BitVec.ofNat 64 w⟩

/-- What the decoder reads from a word of the opcode table. -/
def decodeTableWord (nbits w : Nat) : Option Instr :=
  match decode (tablePacket nbits w) with
  | .ok i => some i
  | .error _ => none

/-! ## Encoding -/

/-- The id of an event (R127). -/
def EventId.id : EventId → Nat
  | .irq => 0
  | .video => 1
  | .dma => 2
  | .stall => 3
  | .joy => 4

/-- A BUSOP word (R121). -/
def busopWord (kind : Nat) (addr : Addr) (data : Byte) : Packet :=
  ⟨.busop, BitVec.ofNat 64 (kind * 2 ^ 32 + addr.toNat * 2 ^ 8 + data.toNat)⟩

/-- An MMIO word (R123). -/
def mmioWord (write : Bool) (bank : Byte) (r : Reg) : Packet :=
  ⟨.mmio, BitVec.ofNat 64 (write.toNat * 2 ^ 24 + bank.toNat * 2 ^ 16 + r.offset)⟩

/-- A CMD word (R126): op, event field, argument. -/
def cmdWord (op ev arg : Nat) : Packet :=
  ⟨.cmd, BitVec.ofNat 64 (op * 2 ^ 56 + ev * 2 ^ 52 + arg)⟩

/-- An EVENT word (R127). -/
def eventWord (e : EventId) : Packet := ⟨.event, BitVec.ofNat 64 e.id⟩

/-- The word of an instruction. Bits a row ignores are written as zeros. -/
def encode : Instr → Packet
  | .fetch a => busopWord 0 a 0
  | .readOperand a => busopWord 1 a 0
  | .memoryLoad a => busopWord 2 a 0
  | .memoryStore a v => busopWord 3 a v
  | .dummyRead a => busopWord 4 a 0
  | .idle => busopWord 5 0 0
  | .halt => busopWord 6 0 0
  | .stop => busopWord 7 0 0
  | .nmiAck => busopWord 8 0 0
  | .rSlhv b => mmioWord false b (.port .slhv)
  | .wSlhv b => mmioWord true b (.port .slhv)
  | .rOphct b => mmioWord false b (.port .ophct)
  | .wOphct b => mmioWord true b (.port .ophct)
  | .rOpvct b => mmioWord false b (.port .opvct)
  | .wOpvct b => mmioWord true b (.port .opvct)
  | .rStat78 b => mmioWord false b (.port .stat78)
  | .wStat78 b => mmioWord true b (.port .stat78)
  | .rNmitimen b => mmioWord false b (.port .nmitimen)
  | .wNmitimen b => mmioWord true b (.port .nmitimen)
  | .rWrio b => mmioWord false b (.port .wrio)
  | .wWrio b => mmioWord true b (.port .wrio)
  | .rHtimel b => mmioWord false b (.port .htimel)
  | .wHtimel b => mmioWord true b (.port .htimel)
  | .rHtimeh b => mmioWord false b (.port .htimeh)
  | .wHtimeh b => mmioWord true b (.port .htimeh)
  | .rVtimel b => mmioWord false b (.port .vtimel)
  | .wVtimel b => mmioWord true b (.port .vtimel)
  | .rVtimeh b => mmioWord false b (.port .vtimeh)
  | .wVtimeh b => mmioWord true b (.port .vtimeh)
  | .rMdmaen b => mmioWord false b (.port .mdmaen)
  | .wMdmaen b => mmioWord true b (.port .mdmaen)
  | .rHdmaen b => mmioWord false b (.port .hdmaen)
  | .wHdmaen b => mmioWord true b (.port .hdmaen)
  | .rMemsel b => mmioWord false b (.port .memsel)
  | .wMemsel b => mmioWord true b (.port .memsel)
  | .rRdnmi b => mmioWord false b (.port .rdnmi)
  | .wRdnmi b => mmioWord true b (.port .rdnmi)
  | .rTimeup b => mmioWord false b (.port .timeup)
  | .wTimeup b => mmioWord true b (.port .timeup)
  | .rHvbjoy b => mmioWord false b (.port .hvbjoy)
  | .wHvbjoy b => mmioWord true b (.port .hvbjoy)
  | .rJoy1l b => mmioWord false b (.port .joy1l)
  | .wJoy1l b => mmioWord true b (.port .joy1l)
  | .rJoy1h b => mmioWord false b (.port .joy1h)
  | .wJoy1h b => mmioWord true b (.port .joy1h)
  | .rJoy2l b => mmioWord false b (.port .joy2l)
  | .wJoy2l b => mmioWord true b (.port .joy2l)
  | .rJoy2h b => mmioWord false b (.port .joy2h)
  | .wJoy2h b => mmioWord true b (.port .joy2h)
  | .rJoy3l b => mmioWord false b (.port .joy3l)
  | .wJoy3l b => mmioWord true b (.port .joy3l)
  | .rJoy3h b => mmioWord false b (.port .joy3h)
  | .wJoy3h b => mmioWord true b (.port .joy3h)
  | .rJoy4l b => mmioWord false b (.port .joy4l)
  | .wJoy4l b => mmioWord true b (.port .joy4l)
  | .rJoy4h b => mmioWord false b (.port .joy4h)
  | .wJoy4h b => mmioWord true b (.port .joy4h)
  | .rDmap b c => mmioWord false b (.chan c .dmap)
  | .wDmap b c => mmioWord true b (.chan c .dmap)
  | .rBbad b c => mmioWord false b (.chan c .bbad)
  | .wBbad b c => mmioWord true b (.chan c .bbad)
  | .rA1tl b c => mmioWord false b (.chan c .a1tl)
  | .wA1tl b c => mmioWord true b (.chan c .a1tl)
  | .rA1th b c => mmioWord false b (.chan c .a1th)
  | .wA1th b c => mmioWord true b (.chan c .a1th)
  | .rA1b b c => mmioWord false b (.chan c .a1b)
  | .wA1b b c => mmioWord true b (.chan c .a1b)
  | .rDasl b c => mmioWord false b (.chan c .dasl)
  | .wDasl b c => mmioWord true b (.chan c .dasl)
  | .rDash b c => mmioWord false b (.chan c .dash)
  | .wDash b c => mmioWord true b (.chan c .dash)
  | .rDasb b c => mmioWord false b (.chan c .dasb)
  | .wDasb b c => mmioWord true b (.chan c .dasb)
  | .rA2al b c => mmioWord false b (.chan c .a2al)
  | .wA2al b c => mmioWord true b (.chan c .a2al)
  | .rA2ah b c => mmioWord false b (.chan c .a2ah)
  | .wA2ah b c => mmioWord true b (.chan c .a2ah)
  | .rNtrl b c => mmioWord false b (.chan c .ntrl)
  | .wNtrl b c => mmioWord true b (.chan c .ntrl)
  | .rUnused b c => mmioWord false b (.chan c .unused)
  | .wUnused b c => mmioWord true b (.chan c .unused)
  | .rUnusedMirror b c => mmioWord false b (.chan c .unusedMirror)
  | .wUnusedMirror b c => mmioWord true b (.chan c .unusedMirror)
  | .rGapC b c => mmioWord false b (.chan c .gapC)
  | .wGapC b c => mmioWord true b (.chan c .gapC)
  | .rGapD b c => mmioWord false b (.chan c .gapD)
  | .wGapD b c => mmioWord true b (.chan c .gapD)
  | .rGapE b c => mmioWord false b (.chan c .gapE)
  | .wGapE b c => mmioWord true b (.chan c .gapE)
  | .rTail b l => mmioWord false b (.tail l)
  | .wTail b l => mmioWord true b (.tail l)
  | .schedule e d => cmdWord 0x01 e.id d.toNat
  | .reschedule e d => cmdWord 0x02 e.id d.toNat
  | .deschedule e => cmdWord 0x03 e.id 0
  | .advance n => cmdWord 0x04 0 n.toNat
  | .anyEventDue => cmdWord 0x05 0 0
  | .stepOnce => cmdWord 0x06 0 0
  | .scheduleAt e t => cmdWord 0x07 e.id t.toNat
  | .reset => cmdWord 0x10 0 0
  | .runFrame => cmdWord 0x11 0 0
  | .runInstruction => cmdWord 0x12 0 0
  | .setKey b p d => cmdWord 0x13 0 (b.toNat * 2 ^ 8 + p.toNat * 2 ^ 4 + d.toNat)
  | .pause => cmdWord 0x14 0 0
  | .resume => cmdWord 0x15 0 0
  | .isPaused => cmdWord 0x16 0 0
  | .evIrq => eventWord .irq
  | .evVideo => eventWord .video
  | .evDma => eventWord .dma
  | .evStall => eventWord .stall
  | .evJoy => eventWord .joy

/-! ## The rows of the opcode table -/

/-- A row of opcode_table.json: a word `w` of its format matches it when `(w & mask) = value` (R120). -/
structure Row where
  format : Format
  value  : BitVec 64
  mask   : BitVec 64
deriving DecidableEq, Repr

/-- Does a word match a row? (R120). -/
def Row.accepts (r : Row) (p : Packet) : Bool := p.format == r.format && p.bits &&& r.mask == r.value

/-- The row of an instruction, its numbers copied from opcode_table.json. -/
def rowOf : Instr → Row
  | .fetch _ => ⟨.busop, 0x000000000, 0xF00000000⟩
  | .readOperand _ => ⟨.busop, 0x100000000, 0xF00000000⟩
  | .memoryLoad _ => ⟨.busop, 0x200000000, 0xF00000000⟩
  | .memoryStore _ _ => ⟨.busop, 0x300000000, 0xF00000000⟩
  | .dummyRead _ => ⟨.busop, 0x400000000, 0xF00000000⟩
  | .idle => ⟨.busop, 0x500000000, 0xF00000000⟩
  | .halt => ⟨.busop, 0x600000000, 0xF00000000⟩
  | .stop => ⟨.busop, 0x700000000, 0xF00000000⟩
  | .nmiAck => ⟨.busop, 0x800000000, 0xF00000000⟩
  | .rSlhv _ => ⟨.mmio, 0x0002137, 0x140FFFF⟩
  | .wSlhv _ => ⟨.mmio, 0x1002137, 0x140FFFF⟩
  | .rOphct _ => ⟨.mmio, 0x000213C, 0x140FFFF⟩
  | .wOphct _ => ⟨.mmio, 0x100213C, 0x140FFFF⟩
  | .rOpvct _ => ⟨.mmio, 0x000213D, 0x140FFFF⟩
  | .wOpvct _ => ⟨.mmio, 0x100213D, 0x140FFFF⟩
  | .rStat78 _ => ⟨.mmio, 0x000213F, 0x140FFFF⟩
  | .wStat78 _ => ⟨.mmio, 0x100213F, 0x140FFFF⟩
  | .rNmitimen _ => ⟨.mmio, 0x0004200, 0x140FFFF⟩
  | .wNmitimen _ => ⟨.mmio, 0x1004200, 0x140FFFF⟩
  | .rWrio _ => ⟨.mmio, 0x0004201, 0x140FFFF⟩
  | .wWrio _ => ⟨.mmio, 0x1004201, 0x140FFFF⟩
  | .rHtimel _ => ⟨.mmio, 0x0004207, 0x140FFFF⟩
  | .wHtimel _ => ⟨.mmio, 0x1004207, 0x140FFFF⟩
  | .rHtimeh _ => ⟨.mmio, 0x0004208, 0x140FFFF⟩
  | .wHtimeh _ => ⟨.mmio, 0x1004208, 0x140FFFF⟩
  | .rVtimel _ => ⟨.mmio, 0x0004209, 0x140FFFF⟩
  | .wVtimel _ => ⟨.mmio, 0x1004209, 0x140FFFF⟩
  | .rVtimeh _ => ⟨.mmio, 0x000420A, 0x140FFFF⟩
  | .wVtimeh _ => ⟨.mmio, 0x100420A, 0x140FFFF⟩
  | .rMdmaen _ => ⟨.mmio, 0x000420B, 0x140FFFF⟩
  | .wMdmaen _ => ⟨.mmio, 0x100420B, 0x140FFFF⟩
  | .rHdmaen _ => ⟨.mmio, 0x000420C, 0x140FFFF⟩
  | .wHdmaen _ => ⟨.mmio, 0x100420C, 0x140FFFF⟩
  | .rMemsel _ => ⟨.mmio, 0x000420D, 0x140FFFF⟩
  | .wMemsel _ => ⟨.mmio, 0x100420D, 0x140FFFF⟩
  | .rRdnmi _ => ⟨.mmio, 0x0004210, 0x140FFFF⟩
  | .wRdnmi _ => ⟨.mmio, 0x1004210, 0x140FFFF⟩
  | .rTimeup _ => ⟨.mmio, 0x0004211, 0x140FFFF⟩
  | .wTimeup _ => ⟨.mmio, 0x1004211, 0x140FFFF⟩
  | .rHvbjoy _ => ⟨.mmio, 0x0004212, 0x140FFFF⟩
  | .wHvbjoy _ => ⟨.mmio, 0x1004212, 0x140FFFF⟩
  | .rJoy1l _ => ⟨.mmio, 0x0004218, 0x140FFFF⟩
  | .wJoy1l _ => ⟨.mmio, 0x1004218, 0x140FFFF⟩
  | .rJoy1h _ => ⟨.mmio, 0x0004219, 0x140FFFF⟩
  | .wJoy1h _ => ⟨.mmio, 0x1004219, 0x140FFFF⟩
  | .rJoy2l _ => ⟨.mmio, 0x000421A, 0x140FFFF⟩
  | .wJoy2l _ => ⟨.mmio, 0x100421A, 0x140FFFF⟩
  | .rJoy2h _ => ⟨.mmio, 0x000421B, 0x140FFFF⟩
  | .wJoy2h _ => ⟨.mmio, 0x100421B, 0x140FFFF⟩
  | .rJoy3l _ => ⟨.mmio, 0x000421C, 0x140FFFF⟩
  | .wJoy3l _ => ⟨.mmio, 0x100421C, 0x140FFFF⟩
  | .rJoy3h _ => ⟨.mmio, 0x000421D, 0x140FFFF⟩
  | .wJoy3h _ => ⟨.mmio, 0x100421D, 0x140FFFF⟩
  | .rJoy4l _ => ⟨.mmio, 0x000421E, 0x140FFFF⟩
  | .wJoy4l _ => ⟨.mmio, 0x100421E, 0x140FFFF⟩
  | .rJoy4h _ => ⟨.mmio, 0x000421F, 0x140FFFF⟩
  | .wJoy4h _ => ⟨.mmio, 0x100421F, 0x140FFFF⟩
  | .rDmap _ _ => ⟨.mmio, 0x0004300, 0x140FF8F⟩
  | .wDmap _ _ => ⟨.mmio, 0x1004300, 0x140FF8F⟩
  | .rBbad _ _ => ⟨.mmio, 0x0004301, 0x140FF8F⟩
  | .wBbad _ _ => ⟨.mmio, 0x1004301, 0x140FF8F⟩
  | .rA1tl _ _ => ⟨.mmio, 0x0004302, 0x140FF8F⟩
  | .wA1tl _ _ => ⟨.mmio, 0x1004302, 0x140FF8F⟩
  | .rA1th _ _ => ⟨.mmio, 0x0004303, 0x140FF8F⟩
  | .wA1th _ _ => ⟨.mmio, 0x1004303, 0x140FF8F⟩
  | .rA1b _ _ => ⟨.mmio, 0x0004304, 0x140FF8F⟩
  | .wA1b _ _ => ⟨.mmio, 0x1004304, 0x140FF8F⟩
  | .rDasl _ _ => ⟨.mmio, 0x0004305, 0x140FF8F⟩
  | .wDasl _ _ => ⟨.mmio, 0x1004305, 0x140FF8F⟩
  | .rDash _ _ => ⟨.mmio, 0x0004306, 0x140FF8F⟩
  | .wDash _ _ => ⟨.mmio, 0x1004306, 0x140FF8F⟩
  | .rDasb _ _ => ⟨.mmio, 0x0004307, 0x140FF8F⟩
  | .wDasb _ _ => ⟨.mmio, 0x1004307, 0x140FF8F⟩
  | .rA2al _ _ => ⟨.mmio, 0x0004308, 0x140FF8F⟩
  | .wA2al _ _ => ⟨.mmio, 0x1004308, 0x140FF8F⟩
  | .rA2ah _ _ => ⟨.mmio, 0x0004309, 0x140FF8F⟩
  | .wA2ah _ _ => ⟨.mmio, 0x1004309, 0x140FF8F⟩
  | .rNtrl _ _ => ⟨.mmio, 0x000430A, 0x140FF8F⟩
  | .wNtrl _ _ => ⟨.mmio, 0x100430A, 0x140FF8F⟩
  | .rUnused _ _ => ⟨.mmio, 0x000430B, 0x140FF8F⟩
  | .wUnused _ _ => ⟨.mmio, 0x100430B, 0x140FF8F⟩
  | .rUnusedMirror _ _ => ⟨.mmio, 0x000430F, 0x140FF8F⟩
  | .wUnusedMirror _ _ => ⟨.mmio, 0x100430F, 0x140FF8F⟩
  | .rGapC _ _ => ⟨.mmio, 0x000430C, 0x140FF8F⟩
  | .wGapC _ _ => ⟨.mmio, 0x100430C, 0x140FF8F⟩
  | .rGapD _ _ => ⟨.mmio, 0x000430D, 0x140FF8F⟩
  | .wGapD _ _ => ⟨.mmio, 0x100430D, 0x140FF8F⟩
  | .rGapE _ _ => ⟨.mmio, 0x000430E, 0x140FF8F⟩
  | .wGapE _ _ => ⟨.mmio, 0x100430E, 0x140FF8F⟩
  | .rTail _ _ => ⟨.mmio, 0x0004380, 0x140FF80⟩
  | .wTail _ _ => ⟨.mmio, 0x1004380, 0x140FF80⟩
  | .schedule _ _ => ⟨.cmd, 0x0100000000000000, 0xFF0F000000000000⟩
  | .reschedule _ _ => ⟨.cmd, 0x0200000000000000, 0xFF0F000000000000⟩
  | .deschedule _ => ⟨.cmd, 0x0300000000000000, 0xFF0F000000000000⟩
  | .advance _ => ⟨.cmd, 0x0400000000000000, 0xFF0F000000000000⟩
  | .anyEventDue => ⟨.cmd, 0x0500000000000000, 0xFF0F000000000000⟩
  | .stepOnce => ⟨.cmd, 0x0600000000000000, 0xFF0F000000000000⟩
  | .scheduleAt _ _ => ⟨.cmd, 0x0700000000000000, 0xFF0F000000000000⟩
  | .reset => ⟨.cmd, 0x1000000000000000, 0xFF0F000000000000⟩
  | .runFrame => ⟨.cmd, 0x1100000000000000, 0xFF0F000000000000⟩
  | .runInstruction => ⟨.cmd, 0x1200000000000000, 0xFF0F000000000000⟩
  | .setKey _ _ _ => ⟨.cmd, 0x1300000000000000, 0xFF0F000000000000⟩
  | .pause => ⟨.cmd, 0x1400000000000000, 0xFF0F000000000000⟩
  | .resume => ⟨.cmd, 0x1500000000000000, 0xFF0F000000000000⟩
  | .isPaused => ⟨.cmd, 0x1600000000000000, 0xFF0F000000000000⟩
  | .evIrq => ⟨.event, 0x0, 0xF⟩
  | .evVideo => ⟨.event, 0x1, 0xF⟩
  | .evDma => ⟨.event, 0x2, 0xF⟩
  | .evStall => ⟨.event, 0x3, 0xF⟩
  | .evJoy => ⟨.event, 0x4, 0xF⟩

end Sys2Proof
end

