-- ==== Sys2Proof/Config.lean ====
section
/-! DEFINITION. What an implementation fixes (the parameter record of spec 00_scope R5, with the
constraints of R6) and the free values of the model: opaque constants with no body. -/

namespace Sys2Proof.Config

/-- The parameters of R5, every row of its table. The step takes the record as the field `cfg` of its state
(log 1); the first three must be the widths that the words have room for (`Params.Widths`; log 2). -/
structure Params where
  nCh            : Nat   -- N_CH
  abusBits       : Nat   -- ABUS_BITS
  bbusBits       : Nat   -- BBUS_BITS
  dotCycles      : Nat   -- P_DOT_CYCLES
  dots           : Nat   -- P_DOTS
  lines          : Nat   -- P_LINES
  vblankLine     : Nat   -- P_VBLANK_LINE
  hblankClearDot : Nat   -- P_HBLANK_CLEAR_DOT
  hdmaInitDot    : Nat   -- P_HDMA_INIT_DOT
  oamReloadDot   : Nat   -- P_OAM_RELOAD_DOT
  joyDot         : Nat   -- P_JOY_DOT
  refreshDot     : Nat   -- P_REFRESH_DOT
  hblankDot      : Nat   -- P_HBLANK_DOT
  hdmaLineDot    : Nat   -- P_HDMA_LINE_DOT
  refreshCycles  : Nat   -- P_REFRESH_CYCLES
  joyBusyCycles  : Nat   -- P_JOY_BUSY_CYCLES
  irqLatency     : Nat   -- P_IRQ_LATENCY, OPEN
  wsFast         : Nat   -- P_WS_FAST
  wsSlow         : Nat   -- P_WS_SLOW
  wsXslow        : Nat   -- P_WS_XSLOW
  idleCycles     : Nat   -- P_IDLE_CYCLES
  dmaAlign       : Nat   -- P_DMA_ALIGN
  dmaInit        : Nat   -- P_DMA_INIT
  dmaChannel     : Nat   -- P_DMA_CHANNEL
  dmaByte        : Nat   -- P_DMA_BYTE
  hdmaOverhead   : Nat   -- P_HDMA_OVERHEAD
  hdmaChannel    : Nat   -- P_HDMA_CHANNEL
  hdmaHeader     : Nat   -- P_HDMA_HEADER
  hdmaPointer    : Nat   -- P_HDMA_POINTER
  hdmaByte       : Nat   -- P_HDMA_BYTE
  prioIrq        : Nat   -- PRIO_IRQ
  prioVideo      : Nat   -- PRIO_VIDEO
  prioDma        : Nat   -- PRIO_DMA
  prioGeneric    : Nat   -- PRIO_GENERIC
  cpuVersion     : BitVec 4   -- P_CPU_VERSION, OPEN
  ppu2Version    : BitVec 4   -- P_PPU2_VERSION, OPEN
deriving DecidableEq, Repr, Inhabited

/-- The value column of R5. DESIGN CHOICE (log 1): for the three OPEN parameters the spec's suggested,
non-normative 14, 2 and 3. -/
def defaultParams : Params where
  nCh := 8
  abusBits := 24
  bbusBits := 8
  dotCycles := 4
  dots := 340
  lines := 262
  vblankLine := 225
  hblankClearDot := 1
  hdmaInitDot := 6
  oamReloadDot := 10
  joyDot := 33
  refreshDot := 134
  hblankDot := 274
  hdmaLineDot := 276
  refreshCycles := 40
  joyBusyCycles := 4224
  irqLatency := 14
  wsFast := 6
  wsSlow := 8
  wsXslow := 12
  idleCycles := 6
  dmaAlign := 8
  dmaInit := 8
  dmaChannel := 8
  dmaByte := 8
  hdmaOverhead := 18
  hdmaChannel := 8
  hdmaHeader := 8
  hdmaPointer := 16
  hdmaByte := 8
  prioIrq := 0
  prioVideo := 1
  prioDma := 2
  prioGeneric := 3
  cpuVersion := 2
  ppu2Version := 3

/-- The widths that 30_encoding R121 to R125 write into every word: a 24-bit A-bus address, an 8-bit B-bus
address, a channel digit 0 to 7. DESIGN CHOICE (log 2): a record with other widths is refused at RESET, since
no word could spell its addresses and channels. -/
abbrev Params.Widths (p : Params) : Prop := p.nCh = 8 ∧ p.abusBits = 24 ∧ p.bbusBits = 8

/-- The constraints of R6, clause by clause, with the widths of log 2; clause (e)'s "every cycle-count
parameter is >= 0" holds by the type. A record that breaks one is refused at RESET (R460). -/
abbrev Params.Valid (p : Params) : Prop :=
  -- (a)
  (0 < p.hblankClearDot ∧ p.hblankClearDot < p.dots ∧ p.hdmaInitDot < p.dots ∧ p.oamReloadDot < p.dots ∧
    p.joyDot < p.dots ∧ p.refreshDot < p.dots ∧ p.hblankDot < p.dots ∧ p.hdmaLineDot < p.dots) ∧
  -- (b)
  p.hdmaInitDot < p.hdmaLineDot ∧
  -- (c)
  (0 < p.vblankLine ∧ p.vblankLine < p.lines) ∧
  -- (d)
  (0 < p.irqLatency ∧ p.irqLatency < p.dots * p.dotCycles) ∧
  -- (e)
  1 ≤ p.dmaAlign ∧
  -- (f)
  (p.prioIrq < p.prioVideo ∧ p.prioVideo < p.prioDma ∧ p.prioDma < p.prioGeneric) ∧
  -- the widths (log 2)
  p.Widths

/-- The free values of R11 (`draw8()`): the n-th unspecified byte. No body: nothing can be proved of its
value (log 3). -/
opaque freeByte : Nat → Byte

/-- The uninterpreted CPU stepping engine (R30, R60, R180): what it presents, from a code of its own
state (log 10). -/
opaque cpuRequest : Nat → CpuRequest

/-- The uninterpreted CPU stepping engine: the code of its next state once its request has been
performed, from its code and the byte last returned to it (log 10). -/
opaque cpuNext : Nat → Byte → Nat

/-- The uninterpreted CPU stepping engine: the code of its state at its first FETCH, from the reset vector it
has read (R463; log 11). -/
opaque cpuEntry : Half → Nat

/-- The uninterpreted CPU stepping engine: the code of its state at the first FETCH of an interrupt's handler, from
its code where it took the interrupt, the interrupt, and the vector it has read (R424; log 32). -/
opaque cpuHandler : Nat → Interrupt → Half → Nat

/-- Is the CPU in native mode, from a code of its state (R424, R425; log 32)? -/
opaque cpuNative : Nat → Bool

/-- The status byte the CPU pushes, from the code of its state where it took the interrupt (R424; log 32). -/
opaque cpuStatus : Nat → Byte

/-- The address the CPU pushes a byte to, from the code of its state where it took the interrupt and how many
pushes follow (R424; log 32). -/
opaque cpuPushAddr : Nat → Nat → Addr

/-- Where the CPU fetches when it goes on after a HALT, from a code of its state (R438; log 32). -/
opaque cpuResume : Nat → Addr

/-- The router as a function of its own state (R12), for the regions whose contents the model does not hold:
what it answers to a read of an address, from a code of its peripherals' state (log 9). -/
opaque routerRead : Nat → Addr → RouterRead

/-- The code of the peripherals' state after a read (R12; log 9). -/
opaque routerAfterRead : Nat → Addr → Nat

/-- What the router answers to a write of a byte (R12; log 9). -/
opaque routerWrite : Nat → Addr → Byte → RouterWrite

/-- The code of the peripherals' state after a write (R12; log 9). -/
opaque routerAfterWrite : Nat → Addr → Byte → Nat

end Sys2Proof.Config
end

