-- ==== Sys2Proof/Machine/State.lean ====
section
/-! DEFINITION. The state of the block as plain data, its fault record, its stops, and the state right
after reset (spec 10_state R30 to R67, 60_exceptions R411, R412, 70_reset_and_hazards R460, R462). -/

namespace Sys2Proof.Machine

/-- The mutable fields of one event (R32). -/
structure Event where
  when   : Nat    -- the absolute trigger cycle
  seq    : Nat    -- the insertion stamp
  queued : Bool   -- whether it is in the queue
deriving DecidableEq, Repr, Inhabited

/-- The five events of R32. The queue of R33 is derived from them. -/
structure Events where
  irq   : Event
  video : Event
  dma   : Event
  stall : Event
  joy   : Event
deriving DecidableEq, Repr, Inhabited

/-- One DMA channel: its registers (R40 to R46), which of them have been written since reset (R47, bit r
for register byte r), and the HDMA internal state (R50). -/
structure Channel where
  dmap   : Byte
  bbad   : Byte
  a1t    : Half
  a1b    : Byte
  das    : Half
  dasb   : Byte
  a2a    : Half
  ntrl   : Byte
  unused : Byte
  written        : BitVec 12
  hdmaDoTransfer : Bool
  hdmaTerminated : Bool
deriving DecidableEq, Repr, Inhabited

/-- `cpuState` (R35). -/
inductive CpuState where
  | running | waiting | stopped
deriving DecidableEq, Repr, Inhabited

/-- `gdmaPhase` (R49). -/
inductive GdmaPhase where
  | idle | select | transfer
deriving DecidableEq, Repr, Inhabited

/-- The block's fault codes (R412). A block fault is a NEXT state that holds the record (R411). -/
inductive FaultCode where
  | enhancementChip   -- FAULT_ENHANCEMENT_CHIP, 1 (R413)
  | dmaPattern        -- FAULT_DMA_PATTERN, 2 (R414)
  | invariant         -- FAULT_INVARIANT, 3 (R415)
deriving DecidableEq, Repr, Inhabited

/-- The clauses of R67 that a step can find broken, each with the values involved (R415). -/
inductive Invariant where
  | gdmaActive (active : Bool) (phase : GdmaPhase)                    -- (a)
  | stallActive (active queued : Bool) (stallWhen stallUntil : Nat)   -- (b)
  | videoQueued (queued : List EventId)                               -- (c)
  | position (dot dots scanline lines : Nat)                          -- (d)
  | aheadZero (ahead : Nat)                                           -- (e)
deriving DecidableEq, Repr, Inhabited

/-- The `info` of a block fault: the offending address, channel and pattern, or the check and the values
involved (R38, R413 to R415). -/
inductive FaultInfo where
  | address (addr : Addr)
  | pattern (c : Chan) (pattern : Nat)
  | advanceBelowAhead (n ahead : Nat)
  | dmaWhileIdle
  | emptyQueue
  | broken (clause : Invariant)
deriving DecidableEq, Repr, Inhabited

/-- The fault record (R38, R411): code, info, the CPU's instruction address, and the event whose callback
raised it, if one did. -/
structure FaultRecord where
  code  : FaultCode
  info  : FaultInfo
  instr : Addr
  event : Option EventId
deriving DecidableEq, Repr, Inhabited

/-- What a region of the router's table is (R12; log 8, log 9). -/
inductive RegionKind where
  | ram        -- plain memory: `Mapped`, `Done`
  | rom        -- reads memory, a write is `Done` without effect
  | device     -- the router's own function of its state: any answer; it sees every read and write
  | writeOnly  -- a peripheral's write port: reads are `Unmapped`, it sees every write
  | chip       -- an unimplemented enhancement processor: `FatalChip`
deriving DecidableEq, Repr, Inhabited

/-- One region of the router's table, bounds inclusive. An address in no region is `Unmapped`. `target` is the
place in router memory of the region's first address: two regions of one target are mirrors of one memory
(log 8). -/
structure Region where
  lo     : Nat
  hi     : Nat
  kind   : RegionKind
  target : Addr
deriving DecidableEq, Repr, Inhabited

/-- An interrupt the CPU's engine is servicing (R424; log 32): its kind, whether the CPU is in native mode, the
code of its state, its `cpuI`, and the address of the FETCH the service stands in place of. -/
structure Service where
  kind       : Interrupt
  nativeMode : Bool
  code       : Nat
  mask       : Bool
  pc         : Addr
deriving DecidableEq, Repr, Inhabited

/-- The CPU stepping engine past the requests it is given (R30, R60): its reset sequence (R463; log 11); an
instruction boundary whose FETCH address and mask the rules give; an interrupt's service (R424; log 32); else a code
of its own state (log 10). -/
inductive Engine where
  | vectorLow                                            -- reads the reset vector's low byte
  | vectorHigh (low : Byte)                              -- reads its high byte
  | boundary (code : Nat) (native mask : Bool) (pc : Addr)   -- fetches a new instruction from `pc`
  | running (code : Nat)
  | acknowledge (v : Service)                            -- issues the NMI_ACK
  | push (v : Service) (value : Byte) (rest : List Byte) -- stores `value`, then `rest`
  | serviceLow (v : Service)                             -- reads the interrupt vector's low byte
  | serviceHigh (v : Service) (low : Byte)               -- reads its high byte
deriving DecidableEq, Repr, Inhabited

/-- The output events a model records (R13), and the bytes the router's peripherals are sent. -/
inductive Output where
  | composeScanline (v : Nat)
  | oamReload
  | routerWrite (addr : Addr) (v : Byte)
deriving DecidableEq, Repr, Inhabited

/-- The value last returned to the host: the bit of ANY_EVENT_DUE and IS_PAUSED, the delay of ADVANCE
(R167, R168, R395). -/
inductive Reply where
  | nothing
  | bit (b : Bool)
  | delay (d : Option Nat)
deriving DecidableEq, Repr, Inhabited

/-- The state. Names are the spec's; the last group is the parameters and inputs of the step (R30) and
the model's own fields (INVENTORY.md). -/
structure State where
  -- master clock and scheduler (R31 to R33)
  committed  : Nat
  ahead      : Nat
  seqCounter : Nat
  events     : Events
  -- arbiter (R34 to R38)
  openBus     : Byte
  cpuState    : CpuState
  gdmaActive  : Bool
  stallActive : Bool
  stallUntil  : Nat
  memsel      : Bool
  fault       : Option FaultRecord
  -- DMA (R40 to R50)
  channels    : Vector Channel 8
  mdmaen      : Byte
  hdmaen      : Byte
  gdmaPhase   : GdmaPhase
  gdmaChannel : Chan
  gdmaIndex   : Nat
  -- video timing (R51 to R59)
  dot         : Nat
  scanline    : Nat
  hblank      : Bool
  vblank      : Bool
  field       : Bool
  nmitimen    : Byte
  htime       : BitVec 9
  vtime       : BitVec 9
  nmiFlag     : Bool
  nmiPrev     : Bool
  nmiRequest  : Bool
  irqFlag     : Bool
  autoJoyBusy : Bool
  joy         : Vector Half 4
  joyInput    : Vector Half 2
  wrio        : Byte
  latchH      : BitVec 9
  latchV      : BitVec 9
  latchFlag   : Bool
  ophctFF     : Bool
  opvctFF     : Bool
  -- bookkeeping (R61)
  frameCounter : Nat
  frameDone    : Bool
  paused       : Bool
  -- parameters and inputs of the step (R5, R12, R60)
  cfg         : Config.Params
  regions     : List Region
  mem         : List Host.Cell
  routerState : Nat
  cpuScript   : List CpuRequest
  cpuEngine   : Engine
  -- the model's own
  port    : List CpuRequest
  inbox   : List Packet
  draws   : Nat
  current : Option EventId
  cpuByte : Byte
  reply   : Reply
  outputs : List Output
deriving DecidableEq, Repr

/-- Why the machine stops with no next state, other than by a refusal of the spec. Both are the model's
own, and safe: the hardware would go on (log 21). -/
inductive Fault where
  /-- Raised by `drain`: an Advance drain that fires more events than `drainFuel` allows, which a valid
  parameter record never does. Safe. -/
  | drainDiverges
  /-- Raised by `frameLoop` and `instructionLoop`: a RUN_FRAME or RUN_INSTRUCTION call that has not
  returned after 2^64 run-loop steps (R399 assumes this away). Safe. -/
  | callDoesNotReturn
deriving DecidableEq, Repr

/-- The refusals of R412 and R415: the spec gives no successor state. Each is safe. -/
inductive Refusal where
  /-- An arm of `exec` without a meaning. Safe. -/
  | notModelled (mnemonic : String)
  /-- REF_UNWRITTEN, raised by the GDMA select step and the HDMA reload and unit steps: channel register
  byte `r` of channel `c` is needed and has not been written since reset: the spec refuses the step (R47, R295,
  R321, R322, R325, R415, R466). Safe. -/
  | unwritten (c : Chan) (r : Nat)
  /-- REF_DMA_REGWINDOW, raised by every DMA A-bus access to a register window (R103). Safe. -/
  | dmaRegWindow (c : Chan) (addr : Addr)
  /-- REF_GDMA_HDMA_SAME_CHANNEL, raised by the GDMA select step (R306). Safe. -/
  | gdmaHdmaSameChannel (c : Chan)
  /-- REF_BAD_CONFIG, raised by RESET on a parameter record that breaks R6 (R460). Safe. -/
  | badConfig
  /-- REF_BAD_COMMAND, raised for a word that spells no operation (R146) and by SET_KEY on a bit below 4
  (R394). Safe. -/
  | badCommand
deriving DecidableEq, Repr

/-- An event that is not queued; its `when` and `seq` are unspecified and never read (R32; log 6). -/
def Event.none : Event := { when := 0, seq := 0, queued := false }

/-- A channel after reset: no register written (R47), not transferring, terminated (R50). The stored
register values are placeholders (log 5). -/
def Channel.reset : Channel where
  dmap := 0
  bbad := 0
  a1t := 0
  a1b := 0
  das := 0
  dasb := 0
  a2a := 0
  ntrl := 0
  unused := 0
  written := 0
  hdmaDoTransfer := false
  hdmaTerminated := true

/-- The state at power-on, which is a reset with `paused = 0` and no key held (R66, R460, R462). -/
def State.reset : State where
  committed := 0
  ahead := 0
  seqCounter := 0
  events :=
    { irq := Event.none
      video := { when := Config.defaultParams.dotCycles, seq := 0, queued := true }
      dma := Event.none
      stall := Event.none
      joy := Event.none }
  openBus := Config.freeByte 0
  cpuState := .running
  gdmaActive := false
  stallActive := false
  stallUntil := 0
  memsel := false
  fault := none
  channels := Vector.replicate 8 Channel.reset
  mdmaen := 0x00
  hdmaen := 0x00
  gdmaPhase := .idle
  gdmaChannel := 0
  gdmaIndex := 0
  dot := 0
  scanline := 0
  hblank := false
  vblank := false
  field := false
  nmitimen := 0x00
  htime := 0x1FF
  vtime := 0x1FF
  nmiFlag := false
  nmiPrev := false
  nmiRequest := false
  irqFlag := false
  autoJoyBusy := false
  joy := Vector.replicate 4 0x0000
  joyInput := Vector.replicate 2 0x0000
  wrio := 0xFF
  latchH := 0
  latchV := 0
  latchFlag := false
  ophctFF := false
  opvctFF := false
  frameCounter := 0
  frameDone := false
  paused := false
  cfg := Config.defaultParams
  regions := [{ lo := 0x000000, hi := 0xFFFFFF, kind := .ram, target := 0x000000 }]
  mem := []
  routerState := 0
  cpuScript := []
  cpuEngine := .vectorLow
  port := []
  inbox := []
  draws := 1
  current := none
  cpuByte := 0x00
  reply := .nothing
  outputs := []

end Sys2Proof.Machine
end

