-- ==== Sys2Proof/Machine/Ops.lean ====
section
/-! DEFINITION. The shared operations: what one operation of the block can end in, the clock, taking a
block fault and the reset that leaves it, the event queue, channels, free values, memory and the router
(spec 10_state, 20_memory, 40_scheduler, 41_bus_arbiter, 60_exceptions, 70_reset_and_hazards). -/

namespace Sys2Proof

/-! ## BUSOP words -/

/-- The kind of a BUSOP word (R121, R122). -/
def wordKind (w : BitVec 36) : BitVec 4 := w.extractLsb' 32 4

/-- The address of a BUSOP word (R121). -/
def wordAddr (w : BitVec 36) : Addr := w.extractLsb' 8 24

/-- The BUSOP word of a kind, an address and a data byte (R121). -/
def busWord (kind : BitVec 4) (a : Addr) (v : Byte) : BitVec 36 := kind ++ a ++ v

/-- `cpuAtFetch` (R60): the wanted operation is the opcode fetch of a new instruction: a FETCH, which marks the
CPU's instruction boundary (R183), whoever presents it. -/
def CpuRequest.atFetch (r : CpuRequest) : Bool := wordKind r.word == 0

end Sys2Proof

namespace Sys2Proof.Machine

/-! ## Results -/

/-- What a part of an operation ends in. `raised` is a block fault: it is recorded in the state and the
rest of the operation or callback is abandoned (R411). -/
inductive Run (α : Type) where
  | ok (a : α) (s : State)
  | raised (s : State)
  | stuck (f : Fault)
  | refused (r : Refusal)
deriving Repr

/-- Go on with `k` unless something stopped: nothing that comes after a fault or a refusal happens
(R411, R415). -/
def Run.bind {α β : Type} (r : Run α) (k : α → State → Run β) : Run β :=
  match r with
  | .ok a s => k a s
  | .raised s => .raised s
  | .stuck f => .stuck f
  | .refused r => .refused r

/-- The outcome of a whole operation: a block fault is a next state. -/
def Run.outcome (r : Run Unit) : Host.Outcome State Fault Refusal :=
  match r with
  | .ok _ s => .next s
  | .raised s => .next s
  | .stuck f => .fault f
  | .refused r => .refused r

/-- A faulted block takes no step: the operation has no effect (R95, R411, R398; log 18). -/
def unlessFaulted (s : State) (r : Run Unit) : Host.Outcome State Fault Refusal :=
  if s.fault.isSome then .next s else r.outcome

/-! ## Clock, CPU port, bus -/

/-- The current time (R31). -/
def now (s : State) : Nat := s.committed + s.ahead

/-- The vector of an interrupt in bank `$00`, native and emulation mode (R425). -/
def interruptVector (native : Bool) : Interrupt → Half
  | .nmi => if native then 0xFFEA else 0xFFFA
  | .irq => if native then 0xFFEE else 0xFFFE

/-- What the CPU stepping engine presents by itself. The reset sequence: the two MEMORY_LOADs of the reset vector
(R463; log 11). At a boundary: the FETCH. In a service: the NMI_ACK, the pushes as MEMORY_STOREs, and, with `cpuI`
set, the MEMORY_LOADs of the vector (R424, R425; log 32). Else what the uninterpreted engine presents (log 10). -/
def engineRequest : Engine → CpuRequest
  | .vectorLow => { word := busWord 2 0x00FFFC 0, irqDisable := true, instrAddr := 0 }
  | .vectorHigh _ => { word := busWord 2 0x00FFFD 0, irqDisable := true, instrAddr := 0 }
  | .boundary _ _ mask pc => { word := busWord 0 pc 0, irqDisable := mask, instrAddr := pc }
  | .running code => Config.cpuRequest code
  | .acknowledge v => { word := busWord 8 0 0, irqDisable := v.mask, instrAddr := v.pc }
  | .push v value rest =>
    { word := busWord 3 (Config.cpuPushAddr v.code rest.length) value, irqDisable := v.mask
      instrAddr := v.pc }
  | .serviceLow v =>
    { word := busWord 2 (0x00#8 ++ interruptVector v.nativeMode v.kind) 0, irqDisable := true
      instrAddr := v.pc }
  | .serviceHigh v _ =>
    { word := busWord 2 (0x00#8 ++ (interruptVector v.nativeMode v.kind + 1)) 0, irqDisable := true
      instrAddr := v.pc }

/-- The pushes of a service: the bank in native mode, the PC, high byte first, and the status (R424; log 32). -/
def startPushes (v : Service) : Engine :=
  let low : List Byte := [v.pc.extractLsb' 0 8, Config.cpuStatus v.code]
  if v.nativeMode then .push v (v.pc.extractLsb' 16 8) (v.pc.extractLsb' 8 8 :: low) else .push v (v.pc.extractLsb' 8 8) low

/-- The CPU stepping engine once its request has been performed, `byte` being the byte last returned to it. A vector
is little-endian, and the handler's first FETCH is from it with `cpuI` set (R424, R425, R463); reset enters emulation
mode (R425). After a HALT the CPU is at an instruction boundary (R438). -/
def engineNext (byte : Byte) : Engine → Engine
  | .vectorLow => .vectorHigh byte
  | .vectorHigh low => .boundary (Config.cpuEntry (byte ++ low)) false true (0x00#8 ++ (byte ++ low))
  | .boundary code _ _ _ => .running (Config.cpuNext code byte)
  | .running code =>
    if wordKind (Config.cpuRequest code).word = 6 then
      .boundary (Config.cpuNext code byte) (Config.cpuNative (Config.cpuNext code byte))
        (Config.cpuRequest code).irqDisable (Config.cpuResume (Config.cpuNext code byte))
    else .running (Config.cpuNext code byte)
  | .acknowledge v => startPushes v
  | .push v _ [] => .serviceLow v
  | .push v _ (value :: rest) => .push v value rest
  | .serviceLow v => .serviceHigh v byte
  | .serviceHigh v low =>
    .boundary (Config.cpuHandler v.code v.kind (byte ++ low)) v.nativeMode true (0x00#8 ++ (byte ++ low))

/-- The service of an interrupt begins: one NMI_ACK before the first push, for an NMI (R424, R418). -/
def startService (v : Service) : Engine :=
  match v.kind with
  | .nmi => .acknowledge v
  | .irq => startPushes v

/-- The CPU stepping engine once it has taken an interrupt in place of the FETCH it presents at a boundary (R423,
R424; log 28, log 32). Only these two forms are ever at one. -/
def engineService (k : Interrupt) : Engine → Engine
  | .boundary code native mask pc => startService { kind := k, nativeMode := native, code := code, mask := mask, pc := pc }
  | .running code =>
    startService { kind := k, nativeMode := Config.cpuNative code, code := code
                   mask := (Config.cpuRequest code).irqDisable, pc := wordAddr (Config.cpuRequest code).word }
  | e => e

/-- What the CPU presents, one request at a time (R60, R180): the first BUSOP word held at its port (log 13);
with none held, the next request of its given stream; past that, its engine's (log 10). -/
def presented (s : State) : CpuRequest :=
  match s.port, s.cpuScript with
  | r :: _, _ => r
  | [], r :: _ => r
  | [], [] => engineRequest s.cpuEngine

/-- The CPU goes on to its next request, once the one it presented has been performed and has led to `s` (R180;
log 10). -/
def cpuAdvance (s : State) : State :=
  match s.port, s.cpuScript with
  | _ :: rest, _ => { s with port := rest }
  | [], _ :: rest => { s with cpuScript := rest }
  | [], [] => { s with cpuEngine := engineNext s.cpuByte s.cpuEngine }

/-- A byte is transferred on the A-bus (R110). -/
def driveBus (v : Byte) (s : State) : State := { s with openBus := v }

/-- `busBlock` (R36, R186). -/
def busBlock (s : State) : Bool := s.gdmaActive || s.stallActive

/-- An output event is recorded (R13). -/
def emit (o : Output) (s : State) : State := { s with outputs := o :: s.outputs }

/-- `draw8()` (R11): the next free byte. -/
def draw8 (s : State) : Byte × State := (Config.freeByte s.draws, { s with draws := s.draws + 1 })

/-- `draw7()`: seven free bits, `draw8()[7:1]` (R222). -/
def draw7 (s : State) : BitVec 7 × State :=
  ((Config.freeByte s.draws).extractLsb' 1 7, { s with draws := s.draws + 1 })

/-- `draw1()`: one free bit (R11). -/
def draw1 (s : State) : BitVec 1 × State :=
  ((Config.freeByte s.draws).extractLsb' 0 1, { s with draws := s.draws + 1 })

/-! ## Taking a block fault, and the reset that leaves it -/

/-- The number of a block fault's code (R412). -/
def faultNumber : FaultCode → Nat
  | .enhancementChip => 1
  | .dmaPattern => 2
  | .invariant => 3

/-- The number of a refusal's code (R412); none for the model's own. -/
def refusalNumber : Refusal → Option Nat
  | .unwritten _ _ => some 0x81
  | .dmaRegWindow _ _ => some 0x82
  | .gdmaHdmaSameChannel _ => some 0x83
  | .badConfig => some 0x84
  | .badCommand => some 0x85
  | _ => none

/-- `fault.code` as the host reads it (R398, R411, R412). -/
def faultCode (s : State) : Option Nat := s.fault.map fun f => faultNumber f.code

/-- `raise Fault(code, info)` (R411): the record is kept, with the CPU's instruction address and the
event whose callback is running; the rest is abandoned. -/
def raiseFault {α : Type} (code : FaultCode) (info : FaultInfo) (s : State) : Run α :=
  .raised { s with
    fault := some { code := code, info := info, instr := (presented s).instrAddr, event := s.current } }

/-- The effect of RESET on a valid parameter record (R460): every item takes its value of R66, openBus is
drawn, EV_VIDEO alone is queued, the CPU starts its reset sequence (R461). The host's `paused` and `joyInput`, the
parameters, the router with its memory and state stay (R391, R394, R396; log 30). -/
def resetBlock (s : State) : State :=
  { State.reset with
    events := { State.reset.events with video := { when := s.cfg.dotCycles, seq := 0, queued := true } }
    openBus := Config.freeByte s.draws
    draws := s.draws + 1
    paused := s.paused
    joyInput := s.joyInput
    cfg := s.cfg
    regions := s.regions
    mem := s.mem
    routerState := s.routerState
    inbox := s.inbox
    cpuByte := s.cpuByte
    reply := s.reply
    outputs := s.outputs }

/-! ## Events -/

/-- The event of an id. -/
def getEvent (es : Events) : EventId → Event
  | .irq => es.irq
  | .video => es.video
  | .dma => es.dma
  | .stall => es.stall
  | .joy => es.joy

/-- Replace the event of an id. -/
def setEvent (es : Events) (e : EventId) (v : Event) : Events :=
  match e with
  | .irq => { es with irq := v }
  | .video => { es with video := v }
  | .dma => { es with dma := v }
  | .stall => { es with stall := v }
  | .joy => { es with joy := v }

/-- The event of an id in a state. -/
def event (s : State) (e : EventId) : Event := getEvent s.events e

/-- The fixed priority of an event (R32). -/
def priority (cfg : Config.Params) : EventId → Nat
  | .irq => cfg.prioIrq
  | .video => cfg.prioVideo
  | .dma => cfg.prioDma
  | .stall => cfg.prioGeneric
  | .joy => cfg.prioGeneric

/-- The ordering key `(when, priority, seq)`, compared lexicographically (R33, R160). -/
def firesBefore (s : State) (e f : EventId) : Bool :=
  (event s e).when < (event s f).when ||
    ((event s e).when == (event s f).when &&
      (priority s.cfg e < priority s.cfg f ||
        (priority s.cfg e == priority s.cfg f && (event s e).seq < (event s f).seq)))

/-- Insert an event into a queue in ascending key order. -/
def insertEvent (s : State) (e : EventId) : List EventId → List EventId
  | [] => [e]
  | f :: rest => if firesBefore s f e then f :: insertEvent s e rest else e :: f :: rest

/-- Every event of R32. -/
def allEvents : List EventId := [.irq, .video, .dma, .stall, .joy]

/-- The queue: the queued events in ascending key order (R33). -/
def queue (s : State) : List EventId :=
  (allEvents.filter fun e => (event s e).queued).foldr (insertEvent s) []

/-- `horizon()` (R166). -/
def horizon (s : State) : Option Nat := (queue s).head?.map fun e => (event s e).when

/-- `AnyEventDue()` (R167). -/
def anyEventDue (s : State) : Bool :=
  match horizon s with
  | none => false
  | some h => h ≤ now s

/-- The grant condition (R193). -/
def granted (s : State) : Bool :=
  !s.fault.isSome && s.cpuState == .running && !anyEventDue s && !busBlock s

/-- `ScheduleAt(e, t)` (R162). -/
def scheduleAt (e : EventId) (t : Nat) (s : State) : State :=
  { s with
    events := setEvent s.events e { when := t, seq := s.seqCounter, queued := true }
    seqCounter := s.seqCounter + 1 }

/-- `Schedule(e, d)` (R163). -/
def schedule (e : EventId) (d : Nat) (s : State) : State := scheduleAt e (s.committed + s.ahead + d) s

/-- `Deschedule(e)` (R165): a queued event leaves the queue; an absent one is left alone. -/
def deschedule (e : EventId) (s : State) : State :=
  { s with events := setEvent s.events e { event s e with queued := false } }

/-- `Reschedule(e, d)` (R164). -/
def reschedule (e : EventId) (d : Nat) (s : State) : State := schedule e d (deschedule e s)

/-- The delay to the next pending event, what `Advance` returns (R168, R170): none in the fault state or
with an empty queue. -/
def nextDelay (s : State) : Option Nat :=
  if s.fault.isSome then none else (horizon s).map fun h => h - s.committed

/-- Where a new stall starts: now, or at the end of a running one (R195). -/
def stallStart (s : State) : Nat := if s.stallActive then max s.stallUntil s.committed else s.committed

/-- `StallBegin(len)` (R195): the stall starts now or is appended to a running one, and a pending EV_DMA
is pushed back. -/
def stallBegin (len : Nat) (s : State) : State :=
  if len = 0 then s else
    let s1 := scheduleAt .stall (stallStart s + len) { s with stallUntil := stallStart s + len, stallActive := true }
    if (event s1 .dma).queued then scheduleAt .dma ((event s1 .dma).when + len) s1 else s1

/-! ## Channels -/

/-- The registers and state of channel `c`. -/
def channel (s : State) (c : Chan) : Channel := s.channels[c]

/-- Replace channel `c`. -/
def setChannel (c : Chan) (ch : Channel) (s : State) : State :=
  { s with channels := s.channels.set c.val ch c.isLt }

/-- `written[c][r]` (R47). -/
def isWritten (ch : Channel) (r : Nat) : Bool := ch.written.getLsbD r

/-- `written[c][r] <- 1` (R47). -/
def markWritten (r : Nat) (ch : Channel) : Channel := { ch with written := ch.written ||| (1#12 <<< r) }

/-- Every channel, ascending (R331). -/
def allChannels : List Chan := [0, 1, 2, 3, 4, 5, 6, 7]

/-! ## Memory behind the router -/

/-- What an unlisted address of router memory reads as (log 8). -/
def blankByte : Byte := 0x00

/-- One byte of router memory. -/
def readByte (m : List Host.Cell) (a : Nat) : Byte :=
  match m with
  | [] => blankByte
  | (b, v) :: rest => if a = b then v else readByte rest a

/-- Write one byte of router memory, keeping the canonical form: addresses strictly rising, no entry
equal to the blank byte. -/
def writeByte (a : Nat) (v : Byte) : List Host.Cell → List Host.Cell
  | [] => if v = blankByte then [] else [(a, v)]
  | (b, w) :: rest =>
    if a < b then (if v = blankByte then (b, w) :: rest else (a, v) :: (b, w) :: rest)
    else if a = b then (if v = blankByte then rest else (a, v) :: rest)
    else (b, w) :: writeByte a v rest

/-- The canonical form of router memory: addresses strictly rising, no listed blank byte, nothing above
the 24-bit address space (R90). -/
abbrev MemoryWf (m : List Host.Cell) : Prop :=
  m.Pairwise (fun a b => a.1 < b.1) ∧ (∀ c ∈ m, c.2 ≠ blankByte) ∧ ∀ c ∈ m, c.1 < 2 ^ 24

/-! ## The router -/

/-- The first region of the router's table that holds an address; none: unmapped. -/
def findRegion (s : State) (a : Addr) : Option Region :=
  s.regions.find? fun r => r.lo ≤ a.toNat && a.toNat ≤ r.hi

/-- The kind of the region that holds an address. -/
def regionKind (s : State) (a : Addr) : Option RegionKind := (findRegion s a).map Region.kind

/-- The place of an address in router memory: its region's `target` and the distance into the region, modulo
2^24 (log 8). An address in no region has no contents; its own number stands for it. -/
def location (s : State) (a : Addr) : Nat :=
  match findRegion s a with
  | some r => (r.target + (a - BitVec.ofNat 24 r.lo)).toNat
  | none => a.toNat

/-- A peripheral sees a read (R12; log 9). -/
def deviceSeesRead (a : Addr) (s : State) : State :=
  { s with routerState := Config.routerAfterRead s.routerState a }

/-- A peripheral sees a write, and the byte is recorded (R12, R13; log 9, log 23). -/
def deviceSeesWrite (a : Addr) (v : Byte) (s : State) : State :=
  emit (.routerWrite a v) { s with routerState := Config.routerAfterWrite s.routerState a v }

/-- `RouterRead(addr)` (R12; log 8, log 9). -/
def routerRead (a : Addr) (s : State) : RouterRead × State :=
  match regionKind s a with
  | some .ram => (.mapped (readByte s.mem (location s a)), s)
  | some .rom => (.mapped (readByte s.mem (location s a)), s)
  | some .device => (Config.routerRead s.routerState a, deviceSeesRead a s)
  | some .writeOnly => (.unmapped, s)
  | some .chip => (.fatalChip, s)
  | none => (.unmapped, s)

/-- `RouterWrite(addr, v)` (R12; log 8, log 9). -/
def routerWrite (a : Addr) (v : Byte) (s : State) : RouterWrite × State :=
  match regionKind s a with
  | some .ram => (.done, { s with mem := writeByte (location s a) v s.mem })
  | some .rom => (.done, s)
  | some .device => (Config.routerWrite s.routerState a v, deviceSeesWrite a v s)
  | some .writeOnly => (.done, deviceSeesWrite a v s)
  | some .chip => (.fatalChip, s)
  | none => (.unmapped, s)

/-- The router's part of `MemRead` (R95): open bus is kept on an unmapped address. -/
def routerMemRead (a : Addr) (s : State) : Run Byte :=
  match routerRead a s with
  | (.mapped v, s1) => .ok v (driveBus v s1)
  | (.unmapped, s1) => .ok s1.openBus s1
  | (.fatalChip, s1) => raiseFault .enhancementChip (.address a) s1

/-- The router's part of `MemWrite` (R95), after the byte has been driven on the bus. -/
def routerMemWrite (a : Addr) (v : Byte) (s : State) : Run Unit :=
  match routerWrite a v s with
  | (.done, s1) => .ok () s1
  | (.unmapped, s1) => .ok () s1
  | (.fatalChip, s1) => raiseFault .enhancementChip (.address a) s1

end Sys2Proof.Machine
end

