-- ==== Sys2Proof/Machine/Operands.lean ====
section
/-! DEFINITION. Operand forms: the halves of register pairs, address assembly, wait-state regions, transfer
patterns and address steps, alignment, the DMA register window, key operands
(spec 20_memory R91, R96, R97, R103, 30_encoding R128 to R144, 41_bus_arbiter R181). -/

namespace Sys2Proof.Machine

/-! ## Halves of wider registers (R97, R132) -/

/-- Bits 7:0 of a pair. -/
def lowByte (h : Half) : Byte := h.extractLsb' 0 8

/-- Bits 15:8 of a pair. -/
def highByte (h : Half) : Byte := h.extractLsb' 8 8

/-- `pair[7:0] <- v`. -/
def withLow (h : Half) (v : Byte) : Half := highByte h ++ v

/-- `pair[15:8] <- v`. -/
def withHigh (h : Half) (v : Byte) : Half := v ++ lowByte h

/-- `target[7:0] <- v` of a 9-bit target (R228, R230). -/
def withLow9 (t : BitVec 9) (v : Byte) : BitVec 9 := t.extractLsb' 8 1 ++ v

/-- `target[8] <- v[0]` of a 9-bit target (R229, R231). -/
def withBit8 (t : BitVec 9) (v : Byte) : BitVec 9 := v.extractLsb' 0 1 ++ t.extractLsb' 0 8

/-! ## Addresses -/

/-- `{bank, offset}` (R8, R144). -/
def assemble (bank : Byte) (offset : Half) : Addr := bank ++ offset

/-- The A-bus address of B-bus register `b`: `$00:2100 + b` (R94). -/
def bBusAddr (b : Byte) : Addr := assemble 0x00 ((0x21 : Byte) ++ b)

/-- The GDMA address `{A1B, A1T}` (R144). -/
def gdmaAddr (ch : Channel) : Addr := assemble ch.a1b ch.a1t

/-- The HDMA direct table address `{A1B, A2A}` (R144). -/
def tableAddr (ch : Channel) : Addr := assemble ch.a1b ch.a2a

/-- The HDMA indirect data address `{DASB, DAS}` (R144). -/
def indirectAddr (ch : Channel) : Addr := assemble ch.dasb ch.das

/-- `DmaRegWindow(a)` (R103, R296): a system bank and an offset in `$2100..$21FF` or `$4000..$43FF`. -/
def dmaRegWindow (a : Addr) : Bool :=
  let off := a.toNat % 2 ^ 16
  !a.getLsbD 22 && ((0x2100 ≤ off && off ≤ 0x21FF) || (0x4000 ≤ off && off ≤ 0x43FF))

/-! ## Wait states (R181) -/

/-- The wait-state regions. -/
inductive Speed where
  | fast | slow | xslow
deriving DecidableEq, Repr

/-- `Region(addr)` for a value of `memsel` (R181). -/
def speedOf (memsel : Bool) (a : Addr) : Speed :=
  let bank := a.toNat / 2 ^ 16
  let off := a.toNat % 2 ^ 16
  if 0x40 ≤ bank ∧ bank ≤ 0x7F then .slow
  else if 0xC0 ≤ bank ∧ bank ≤ 0xFF then (if memsel then .fast else .slow)
  else if off ≤ 0x1FFF then .slow
  else if off ≤ 0x3FFF then .fast
  else if off ≤ 0x41FF then .xslow
  else if off ≤ 0x5FFF then .fast
  else if off ≤ 0x7FFF then .slow
  else if 0x80 ≤ bank ∧ memsel = true then .fast
  else .slow

/-- The cost of a region (R181). -/
def speedCost (cfg : Config.Params) : Speed → Nat
  | .fast => cfg.wsFast
  | .slow => cfg.wsSlow
  | .xslow => cfg.wsXslow

/-- `WS(addr)` (R181). -/
def waitState (s : State) (a : Addr) : Nat := speedCost s.cfg (speedOf s.memsel a)

/-- The least multiple of `a` that is at least `x` (R291). -/
def alignUp (x a : Nat) : Nat := (x + a - 1) / a * a

/-! ## Transfer patterns (R128 to R130) -/

/-- `DMAP[2:0]`. -/
def patternOf (ch : Channel) : Nat := (ch.dmap.extractLsb' 0 3).toNat

/-- `DMAP[7]`: false A-bus to B-bus, true B-bus to A-bus (R128, R297). -/
def toABus (ch : Channel) : Bool := ch.dmap.getLsbD 7

/-- `DMAP[6]`, HDMA's indirect mode (R128). -/
def indirect (ch : Channel) : Bool := ch.dmap.getLsbD 6

/-- The unit length `U` of a pattern (R129). -/
def unitLength : Nat → Nat
  | 0 => 1
  | 1 => 2
  | 2 => 2
  | 3 => 4
  | 4 => 4
  | 5 => 4
  | 6 => 2
  | _ => 4

/-- The B-bus offsets of a pattern's unit (R129). -/
def unitOffsets : Nat → List Nat
  | 0 => [0]
  | 1 => [0, 1]
  | 2 => [0, 0]
  | 3 => [0, 0, 1, 1]
  | 4 => [0, 1, 2, 3]
  | 5 => [0, 1, 0, 1]
  | 6 => [0, 0]
  | _ => [0, 0, 1, 1]

/-- The B-bus address of byte `i` of a transfer: `(BBAD + off[i mod U]) mod 256` (R129, R293). -/
def unitAddr (ch : Channel) (i : Nat) : Byte :=
  ch.bbad + BitVec.ofNat 8 ((unitOffsets (patternOf ch)).getD (i % unitLength (patternOf ch)) 0)

/-- Patterns 4 and 5 are unimplemented (R129, R303, R333). -/
def patternFaults (ch : Channel) : Bool := patternOf ch == 4 || patternOf ch == 5

/-- The GDMA address step, `DMAP[4:3]`, applied to `A1T` modulo 2^16 (R130, R298). -/
def stepA1t (ch : Channel) : Half :=
  match (ch.dmap.extractLsb' 3 2).toNat with
  | 0 => ch.a1t + 1
  | 2 => ch.a1t - 1
  | _ => ch.a1t

/-! ## Keys (R138, R394) -/

/-- `joyInput[port][bit] <- pressed` (R394). -/
def withKey (input : Half) (bit : BitVec 4) (pressed : Bool) : Half :=
  let mask : Half := 1#16 <<< bit.toNat
  if pressed then input ||| mask else input &&& ~~~mask

end Sys2Proof.Machine
end

