-- ==== Sys2Proof/Machine/Flags.lean ====
section
/-! DEFINITION. The status flags: enables, the NMI edge, the IRQ line, the wake condition, the interrupt the
CPU takes at a boundary, the counter latch, and the status bytes software reads
(spec 10_state R53 to R59, 30_encoding R131 to R141, 60_exceptions R417 to R426). -/

namespace Sys2Proof.Machine

/-- `nmiEnable` (R53, R131). -/
def nmiEnable (s : State) : Bool := s.nmitimen.getLsbD 7

/-- `irqMode`, bits 5:4 (R53, R131). -/
def irqMode (s : State) : BitVec 2 := s.nmitimen.extractLsb' 4 2

/-- `autoJoyEnable` (R53, R131). -/
def autoJoyEnable (s : State) : Bool := s.nmitimen.getLsbD 0

/-- `NmiEdgeEval()` (R417). -/
def nmiEdgeEval (s : State) : State :=
  let line := nmiEnable s && s.nmiFlag
  { s with
    nmiRequest := s.nmiRequest || (line && !s.nmiPrev)
    nmiPrev := line }

/-- `irqLine` (R422). -/
def irqLine (s : State) : Bool := s.irqFlag

/-- `WakeCondition()` (R198). -/
def wakeCondition (s : State) : Bool := s.nmiRequest || (irqLine s && !(presented s).irqDisable)

/-- What the CPU takes where it samples (R423, R426): only just before it would issue the FETCH of a new
instruction, so once every event due has fired, with the block live, the CPU running and the bus its own (R193);
an NMI before an IRQ, an IRQ only with `cpuI = 0`. -/
def interruptTaken (s : State) : Option Interrupt :=
  if granted s && (presented s).atFetch then
    if s.nmiRequest then some .nmi
    else if irqLine s && !(presented s).irqDisable then some .irq
    else none
  else none

/-- The CPU's own engine takes the interrupt, in place of the FETCH it would have issued, and begins its service
(R423, R424). A given stream of requests, and a word at the port, hold what the CPU did at its boundaries already
(log 28). -/
def takeInterrupt (s : State) : State :=
  match s.port, s.cpuScript, interruptTaken s with
  | [], [], some k => { s with cpuEngine := engineService k s.cpuEngine }
  | _, _, _ => s

/-- `Latch()` (R365). -/
def latchCounters (s : State) : State :=
  { s with
    latchH := BitVec.ofNat 9 s.dot
    latchV := BitVec.ofNat 9 s.scanline
    latchFlag := true }

/-- RDNMI (R135). -/
def rdnmiByte (s : State) : Byte :=
  BitVec.ofBool s.nmiFlag ++ s.openBus.extractLsb' 4 3 ++ s.cfg.cpuVersion

/-- TIMEUP (R136). -/
def timeupByte (s : State) : Byte := BitVec.ofBool s.irqFlag ++ s.openBus.extractLsb' 0 7

/-- HVBJOY (R137). -/
def hvbjoyByte (s : State) : Byte :=
  BitVec.ofBool s.vblank ++ BitVec.ofBool s.hblank ++ s.openBus.extractLsb' 1 5 ++ BitVec.ofBool s.autoJoyBusy

/-- STAT78 (R140), with bit 5 free. -/
def stat78Byte (s : State) (bit5 : BitVec 1) : Byte :=
  BitVec.ofBool s.field ++ BitVec.ofBool s.latchFlag ++ bit5 ++ 0#1 ++ s.cfg.ppu2Version

/-- The high read of OPHCT and OPVCT (R141): seven free bits above `latch[8]`. -/
def latchHighByte (free : BitVec 7) (latch : BitVec 9) : Byte := free ++ latch.extractLsb' 8 1

/-- The low read of OPHCT and OPVCT (R141). -/
def latchLowByte (latch : BitVec 9) : Byte := latch.extractLsb' 0 8

end Sys2Proof.Machine
end

