-- ==== Sys2Proof/Machine/Registers.lean ====
section
/-! DEFINITION. The memory-mapped registers of the block window, the access primitives MemRead and MemWrite,
and the meanings of the 82 MMIO rows (spec 42_registers R220 to R254, 20_memory R95, R96, 43_gdma R291). -/

namespace Sys2Proof.Machine

/-! ## Counter-latch registers (R221 to R225) -/

/-- SLHV read (R221): latches while `wrio[7] = 1`; the byte is the video chip's, unspecified. -/
def readSlhv (s : State) : Byte × State := draw8 (if s.wrio.getLsbD 7 then latchCounters s else s)

/-- OPHCT read (R222). -/
def readOphct (s : State) : Byte × State :=
  if s.ophctFF then
    (latchHighByte (draw7 s).1 s.latchH, { (draw7 s).2 with ophctFF := false })
  else (latchLowByte s.latchH, { s with ophctFF := true })

/-- OPVCT read (R223). -/
def readOpvct (s : State) : Byte × State :=
  if s.opvctFF then
    (latchHighByte (draw7 s).1 s.latchV, { (draw7 s).2 with opvctFF := false })
  else (latchLowByte s.latchV, { s with opvctFF := true })

/-- STAT78 read (R224): clears the latch flag and both flip-flops. -/
def readStat78 (s : State) : Byte × State :=
  (stat78Byte s (draw1 s).1,
    { (draw1 s).2 with latchFlag := false, ophctFF := false, opvctFF := false })

/-! ## Control ports (R226 to R235) -/

/-- A read of a write-only port or an unmapped offset of the window: open bus (R235, R253, R254). -/
def readOpenBus (s : State) : Byte × State := (s.openBus, s)

/-- A write to a read-only register or an unmapped offset of the window: ignored (R225, R240, R253,
R254). -/
def ignoreWrite (_v : Byte) (s : State) : State := s

/-- NMITIMEN write (R226). -/
def writeNmitimen (v : Byte) (s : State) : State :=
  let s1 : State := { s with nmitimen := v }
  nmiEdgeEval (if irqMode s1 = 0 then deschedule .irq { s1 with irqFlag := false } else s1)

/-- WRIO write (R227): a fall of bit 7 latches the counters. -/
def writeWrio (v : Byte) (s : State) : State :=
  let s1 : State := { s with wrio := v }
  if s.wrio.getLsbD 7 && !v.getLsbD 7 then latchCounters s1 else s1

/-- HTIMEL write (R228). -/
def writeHtimel (v : Byte) (s : State) : State := { s with htime := withLow9 s.htime v }

/-- HTIMEH write (R229). -/
def writeHtimeh (v : Byte) (s : State) : State := { s with htime := withBit8 s.htime v }

/-- VTIMEL write (R230). -/
def writeVtimel (v : Byte) (s : State) : State := { s with vtime := withLow9 s.vtime v }

/-- VTIMEH write (R231). -/
def writeVtimeh (v : Byte) (s : State) : State := { s with vtime := withBit8 s.vtime v }

/-- `GdmaArm(v, T, c_w)` (R291): the enables are stored; a nonzero value starts the sequencer, aligned
after the end of the arming store. -/
def gdmaArm (v : Byte) (t cw : Nat) (s : State) : State :=
  let s1 : State := { s with mdmaen := v }
  if v ≠ 0 ∧ s.gdmaPhase = .idle then
    scheduleAt .dma (alignUp (t + cw) s.cfg.dmaAlign + s.cfg.dmaInit)
      { s1 with gdmaActive := true, gdmaPhase := .select }
  else s1

/-- MDMAEN write (R232) through address `a`: armed at the access time, with the store's own cost. -/
def writeMdmaen (a : Addr) (v : Byte) (s : State) : State := gdmaArm v (now s) (waitState s a) s

/-- HDMAEN write (R233). -/
def writeHdmaen (v : Byte) (s : State) : State := { s with hdmaen := v }

/-- MEMSEL write (R234). -/
def writeMemsel (v : Byte) (s : State) : State := { s with memsel := v.getLsbD 0 }

/-! ## Status and joypad ports (R236 to R240) -/

/-- RDNMI read (R236): clears the NMI flag. -/
def readRdnmi (s : State) : Byte × State := (rdnmiByte s, nmiEdgeEval { s with nmiFlag := false })

/-- TIMEUP read (R237): clears the IRQ flag. -/
def readTimeup (s : State) : Byte × State := (timeupByte s, { s with irqFlag := false })

/-- HVBJOY read (R238). -/
def readHvbjoy (s : State) : Byte × State := (hvbjoyByte s, s)

/-- JOY read (R239) of latched result `n`, low or high byte: unspecified while busy. -/
def readJoy (n : Fin 4) (high : Bool) (s : State) : Byte × State :=
  if s.autoJoyBusy then draw8 s
  else (if high then highByte s.joy[n] else lowByte s.joy[n], s)

/-! ## DMA channel registers (R241 to R254) -/

/-- The stored value of a channel register byte (R241 to R252). -/
def chanByte (ch : Channel) : ChanReg → Byte
  | .dmap => ch.dmap
  | .bbad => ch.bbad
  | .a1tl => lowByte ch.a1t
  | .a1th => highByte ch.a1t
  | .a1b => ch.a1b
  | .dasl => lowByte ch.das
  | .dash => highByte ch.das
  | .dasb => ch.dasb
  | .a2al => lowByte ch.a2a
  | .a2ah => highByte ch.a2a
  | .ntrl => ch.ntrl
  | .unused | .unusedMirror => ch.unused
  | .gapC | .gapD | .gapE => 0

/-- A channel with one register byte stored (R241 to R252); the gap offsets store nothing (R253). -/
def withChanByte (ch : Channel) (v : Byte) : ChanReg → Channel
  | .dmap => { ch with dmap := v }
  | .bbad => { ch with bbad := v }
  | .a1tl => { ch with a1t := withLow ch.a1t v }
  | .a1th => { ch with a1t := withHigh ch.a1t v }
  | .a1b => { ch with a1b := v }
  | .dasl => { ch with das := withLow ch.das v }
  | .dash => { ch with das := withHigh ch.das v }
  | .dasb => { ch with dasb := v }
  | .a2al => { ch with a2a := withLow ch.a2a v }
  | .a2ah => { ch with a2a := withHigh ch.a2a v }
  | .ntrl => { ch with ntrl := v }
  | .unused | .unusedMirror => { ch with unused := v }
  | .gapC | .gapD | .gapE => ch

/-- The `written` index of a channel register byte; the two addresses of UNUSED share index 11, the gap
offsets have none (R47, R252, R253). -/
def writtenIndex : ChanReg → Option Nat
  | .dmap => some 0
  | .bbad => some 1
  | .a1tl => some 2
  | .a1th => some 3
  | .a1b => some 4
  | .dasl => some 5
  | .dash => some 6
  | .dasb => some 7
  | .a2al => some 8
  | .a2ah => some 9
  | .ntrl => some 10
  | .unused | .unusedMirror => some 11
  | .gapC | .gapD | .gapE => none

/-- Read of a channel register: the stored value if written since reset, else `draw8()` (R47); a gap
offset reads open bus (R253). -/
def readChannelReg (r : ChanReg) (c : Chan) (s : State) : Byte × State :=
  match writtenIndex r with
  | some i => if isWritten (channel s c) i then (chanByte (channel s c) r, s) else draw8 s
  | none => readOpenBus s

/-- Write of a channel register: stored and marked written; a gap offset ignores it (R253). -/
def writeChannelReg (r : ChanReg) (c : Chan) (v : Byte) (s : State) : State :=
  match writtenIndex r with
  | some i => setChannel c (markWritten i (withChanByte (channel s c) v r)) s
  | none => ignoreWrite v s

/-! ## The window and the access primitives -/

/-- `BlockRead` (R220). -/
def blockRead : Reg → State → Byte × State
  | .port .slhv => readSlhv
  | .port .ophct => readOphct
  | .port .opvct => readOpvct
  | .port .stat78 => readStat78
  | .port .nmitimen => readOpenBus
  | .port .wrio => readOpenBus
  | .port .htimel => readOpenBus
  | .port .htimeh => readOpenBus
  | .port .vtimel => readOpenBus
  | .port .vtimeh => readOpenBus
  | .port .mdmaen => readOpenBus
  | .port .hdmaen => readOpenBus
  | .port .memsel => readOpenBus
  | .port .rdnmi => readRdnmi
  | .port .timeup => readTimeup
  | .port .hvbjoy => readHvbjoy
  | .port .joy1l => readJoy 0 false
  | .port .joy1h => readJoy 0 true
  | .port .joy2l => readJoy 1 false
  | .port .joy2h => readJoy 1 true
  | .port .joy3l => readJoy 2 false
  | .port .joy3h => readJoy 2 true
  | .port .joy4l => readJoy 3 false
  | .port .joy4h => readJoy 3 true
  | .chan c r => readChannelReg r c
  | .tail _ => readOpenBus

/-- `BlockWrite` (R220) of a byte through address `a`. -/
def blockWrite (a : Addr) (v : Byte) : Reg → State → State
  | .port .slhv => ignoreWrite v
  | .port .ophct => ignoreWrite v
  | .port .opvct => ignoreWrite v
  | .port .stat78 => ignoreWrite v
  | .port .nmitimen => writeNmitimen v
  | .port .wrio => writeWrio v
  | .port .htimel => writeHtimel v
  | .port .htimeh => writeHtimeh v
  | .port .vtimel => writeVtimel v
  | .port .vtimeh => writeVtimeh v
  | .port .mdmaen => writeMdmaen a v
  | .port .hdmaen => writeHdmaen v
  | .port .memsel => writeMemsel v
  | .port .rdnmi => ignoreWrite v
  | .port .timeup => ignoreWrite v
  | .port .hvbjoy => ignoreWrite v
  | .port .joy1l => ignoreWrite v
  | .port .joy1h => ignoreWrite v
  | .port .joy2l => ignoreWrite v
  | .port .joy2h => ignoreWrite v
  | .port .joy3l => ignoreWrite v
  | .port .joy3h => ignoreWrite v
  | .port .joy4l => ignoreWrite v
  | .port .joy4h => ignoreWrite v
  | .chan c r => writeChannelReg r c v
  | .tail _ => ignoreWrite v

/-- `MemRead(addr, 1)` (R95): the byte read is the byte left on the bus (R110). -/
def memRead (a : Addr) (s : State) : Run Byte :=
  match windowReg a with
  | some r => .ok (blockRead r s).1 (driveBus (blockRead r s).1 (blockRead r s).2)
  | none => routerMemRead a s

/-- `MemWrite(addr, 1, v)` (R95). -/
def memWrite (a : Addr) (v : Byte) (s : State) : Run Unit :=
  match windowReg a with
  | some r => .ok () (blockWrite a v r (driveBus v s))
  | none => routerMemWrite a v (driveBus v s)

/-- `BRead(b)` (R96). -/
def bRead (b : Byte) (s : State) : Run Byte := memRead (bBusAddr b) s

/-- `BWrite(b, v)` (R96). -/
def bWrite (b : Byte) (v : Byte) (s : State) : Run Unit := memWrite (bBusAddr b) v s

/-! ## The MMIO rows

An MMIO word is one access decoded in the window (R123). Presented alone, a read leaves its byte on the bus
and a write takes the byte on the bus: MemWrite has driven it there (R95; log 14). The access charges no
CPU cost of its own. -/

/-- A read row: the register's read, its byte left on the bus (R95). DESIGN CHOICE (log 14): presented alone it is
made at once, on the state as it stands: no due event fires first. -/
def mmioRead (f : State → Byte × State) (s : State) : Host.Outcome State Fault Refusal :=
  unlessFaulted s (.ok () (driveBus (f s).1 (f s).2))

/-- A write row: the register's write of the byte on the bus (R95; log 14). DESIGN CHOICE (log 14): presented alone
it is made at once, on the state as it stands: no due event fires first. -/
def mmioWrite (f : Byte → State → State) (s : State) : Host.Outcome State Fault Refusal :=
  unlessFaulted s (.ok () (f s.openBus s))

/-- A router access presented as an MMIO word (R123; log 15). -/
def mmioRouter (write : Bool) (a : Addr) (s : State) : Host.Outcome State Fault Refusal :=
  unlessFaulted s
    (if write then routerMemWrite a s.openBus s else (routerMemRead a s).bind fun _ s1 => .ok () s1)

/-- Read of SLHV (R221). -/
def execRSlhv (s : State) : Host.Outcome State Fault Refusal := mmioRead readSlhv s

/-- Write of SLHV (R225). -/
def execWSlhv (s : State) : Host.Outcome State Fault Refusal := mmioWrite ignoreWrite s

/-- Read of OPHCT (R222). -/
def execROphct (s : State) : Host.Outcome State Fault Refusal := mmioRead readOphct s

/-- Write of OPHCT (R225). -/
def execWOphct (s : State) : Host.Outcome State Fault Refusal := mmioWrite ignoreWrite s

/-- Read of OPVCT (R223). -/
def execROpvct (s : State) : Host.Outcome State Fault Refusal := mmioRead readOpvct s

/-- Write of OPVCT (R225). -/
def execWOpvct (s : State) : Host.Outcome State Fault Refusal := mmioWrite ignoreWrite s

/-- Read of STAT78 (R224). -/
def execRStat78 (s : State) : Host.Outcome State Fault Refusal := mmioRead readStat78 s

/-- Write of STAT78 (R225). -/
def execWStat78 (s : State) : Host.Outcome State Fault Refusal := mmioWrite ignoreWrite s

/-- Read of NMITIMEN (R235). -/
def execRNmitimen (s : State) : Host.Outcome State Fault Refusal := mmioRead readOpenBus s

/-- Write of NMITIMEN (R226). -/
def execWNmitimen (s : State) : Host.Outcome State Fault Refusal := mmioWrite writeNmitimen s

/-- Read of WRIO (R235). -/
def execRWrio (s : State) : Host.Outcome State Fault Refusal := mmioRead readOpenBus s

/-- Write of WRIO (R227). -/
def execWWrio (s : State) : Host.Outcome State Fault Refusal := mmioWrite writeWrio s

/-- Read of HTIMEL (R235). -/
def execRHtimel (s : State) : Host.Outcome State Fault Refusal := mmioRead readOpenBus s

/-- Write of HTIMEL (R228). -/
def execWHtimel (s : State) : Host.Outcome State Fault Refusal := mmioWrite writeHtimel s

/-- Read of HTIMEH (R235). -/
def execRHtimeh (s : State) : Host.Outcome State Fault Refusal := mmioRead readOpenBus s

/-- Write of HTIMEH (R229). -/
def execWHtimeh (s : State) : Host.Outcome State Fault Refusal := mmioWrite writeHtimeh s

/-- Read of VTIMEL (R235). -/
def execRVtimel (s : State) : Host.Outcome State Fault Refusal := mmioRead readOpenBus s

/-- Write of VTIMEL (R230). -/
def execWVtimel (s : State) : Host.Outcome State Fault Refusal := mmioWrite writeVtimel s

/-- Read of VTIMEH (R235). -/
def execRVtimeh (s : State) : Host.Outcome State Fault Refusal := mmioRead readOpenBus s

/-- Write of VTIMEH (R231). -/
def execWVtimeh (s : State) : Host.Outcome State Fault Refusal := mmioWrite writeVtimeh s

/-- Read of MDMAEN (R235). -/
def execRMdmaen (s : State) : Host.Outcome State Fault Refusal := mmioRead readOpenBus s

/-- Write of MDMAEN (R232). -/
def execWMdmaen (bank : Byte) (s : State) : Host.Outcome State Fault Refusal :=
  mmioWrite (writeMdmaen (assemble bank 0x420B)) s

/-- Read of HDMAEN (R235). -/
def execRHdmaen (s : State) : Host.Outcome State Fault Refusal := mmioRead readOpenBus s

/-- Write of HDMAEN (R233). -/
def execWHdmaen (s : State) : Host.Outcome State Fault Refusal := mmioWrite writeHdmaen s

/-- Read of MEMSEL (R235). -/
def execRMemsel (s : State) : Host.Outcome State Fault Refusal := mmioRead readOpenBus s

/-- Write of MEMSEL (R234). -/
def execWMemsel (s : State) : Host.Outcome State Fault Refusal := mmioWrite writeMemsel s

/-- Read of RDNMI (R236). -/
def execRRdnmi (s : State) : Host.Outcome State Fault Refusal := mmioRead readRdnmi s

/-- Write of RDNMI (R240). -/
def execWRdnmi (s : State) : Host.Outcome State Fault Refusal := mmioWrite ignoreWrite s

/-- Read of TIMEUP (R237). -/
def execRTimeup (s : State) : Host.Outcome State Fault Refusal := mmioRead readTimeup s

/-- Write of TIMEUP (R240). -/
def execWTimeup (s : State) : Host.Outcome State Fault Refusal := mmioWrite ignoreWrite s

/-- Read of HVBJOY (R238). -/
def execRHvbjoy (s : State) : Host.Outcome State Fault Refusal := mmioRead readHvbjoy s

/-- Write of HVBJOY (R240). -/
def execWHvbjoy (s : State) : Host.Outcome State Fault Refusal := mmioWrite ignoreWrite s

/-- Read of JOY1L (R239). -/
def execRJoy1l (s : State) : Host.Outcome State Fault Refusal := mmioRead (readJoy 0 false) s

/-- Write of JOY1L (R240). -/
def execWJoy1l (s : State) : Host.Outcome State Fault Refusal := mmioWrite ignoreWrite s

/-- Read of JOY1H (R239). -/
def execRJoy1h (s : State) : Host.Outcome State Fault Refusal := mmioRead (readJoy 0 true) s

/-- Write of JOY1H (R240). -/
def execWJoy1h (s : State) : Host.Outcome State Fault Refusal := mmioWrite ignoreWrite s

/-- Read of JOY2L (R239). -/
def execRJoy2l (s : State) : Host.Outcome State Fault Refusal := mmioRead (readJoy 1 false) s

/-- Write of JOY2L (R240). -/
def execWJoy2l (s : State) : Host.Outcome State Fault Refusal := mmioWrite ignoreWrite s

/-- Read of JOY2H (R239). -/
def execRJoy2h (s : State) : Host.Outcome State Fault Refusal := mmioRead (readJoy 1 true) s

/-- Write of JOY2H (R240). -/
def execWJoy2h (s : State) : Host.Outcome State Fault Refusal := mmioWrite ignoreWrite s

/-- Read of JOY3L (R239). -/
def execRJoy3l (s : State) : Host.Outcome State Fault Refusal := mmioRead (readJoy 2 false) s

/-- Write of JOY3L (R240). -/
def execWJoy3l (s : State) : Host.Outcome State Fault Refusal := mmioWrite ignoreWrite s

/-- Read of JOY3H (R239). -/
def execRJoy3h (s : State) : Host.Outcome State Fault Refusal := mmioRead (readJoy 2 true) s

/-- Write of JOY3H (R240). -/
def execWJoy3h (s : State) : Host.Outcome State Fault Refusal := mmioWrite ignoreWrite s

/-- Read of JOY4L (R239). -/
def execRJoy4l (s : State) : Host.Outcome State Fault Refusal := mmioRead (readJoy 3 false) s

/-- Write of JOY4L (R240). -/
def execWJoy4l (s : State) : Host.Outcome State Fault Refusal := mmioWrite ignoreWrite s

/-- Read of JOY4H (R239). -/
def execRJoy4h (s : State) : Host.Outcome State Fault Refusal := mmioRead (readJoy 3 true) s

/-- Write of JOY4H (R240). -/
def execWJoy4h (s : State) : Host.Outcome State Fault Refusal := mmioWrite ignoreWrite s

/-- Read of DMAP[c] (R241). -/
def execRDmap (c : Chan) (s : State) : Host.Outcome State Fault Refusal :=
  mmioRead (readChannelReg .dmap c) s

/-- Write of DMAP[c] (R241). -/
def execWDmap (c : Chan) (s : State) : Host.Outcome State Fault Refusal :=
  mmioWrite (writeChannelReg .dmap c) s

/-- Read of BBAD[c] (R242). -/
def execRBbad (c : Chan) (s : State) : Host.Outcome State Fault Refusal :=
  mmioRead (readChannelReg .bbad c) s

/-- Write of BBAD[c] (R242). -/
def execWBbad (c : Chan) (s : State) : Host.Outcome State Fault Refusal :=
  mmioWrite (writeChannelReg .bbad c) s

/-- Read of A1TL[c] (R243). -/
def execRA1tl (c : Chan) (s : State) : Host.Outcome State Fault Refusal :=
  mmioRead (readChannelReg .a1tl c) s

/-- Write of A1TL[c] (R243). -/
def execWA1tl (c : Chan) (s : State) : Host.Outcome State Fault Refusal :=
  mmioWrite (writeChannelReg .a1tl c) s

/-- Read of A1TH[c] (R244). -/
def execRA1th (c : Chan) (s : State) : Host.Outcome State Fault Refusal :=
  mmioRead (readChannelReg .a1th c) s

/-- Write of A1TH[c] (R244). -/
def execWA1th (c : Chan) (s : State) : Host.Outcome State Fault Refusal :=
  mmioWrite (writeChannelReg .a1th c) s

/-- Read of A1B[c] (R245). -/
def execRA1b (c : Chan) (s : State) : Host.Outcome State Fault Refusal :=
  mmioRead (readChannelReg .a1b c) s

/-- Write of A1B[c] (R245). -/
def execWA1b (c : Chan) (s : State) : Host.Outcome State Fault Refusal :=
  mmioWrite (writeChannelReg .a1b c) s

/-- Read of DASL[c] (R246). -/
def execRDasl (c : Chan) (s : State) : Host.Outcome State Fault Refusal :=
  mmioRead (readChannelReg .dasl c) s

/-- Write of DASL[c] (R246). -/
def execWDasl (c : Chan) (s : State) : Host.Outcome State Fault Refusal :=
  mmioWrite (writeChannelReg .dasl c) s

/-- Read of DASH[c] (R247). -/
def execRDash (c : Chan) (s : State) : Host.Outcome State Fault Refusal :=
  mmioRead (readChannelReg .dash c) s

/-- Write of DASH[c] (R247). -/
def execWDash (c : Chan) (s : State) : Host.Outcome State Fault Refusal :=
  mmioWrite (writeChannelReg .dash c) s

/-- Read of DASB[c] (R248). -/
def execRDasb (c : Chan) (s : State) : Host.Outcome State Fault Refusal :=
  mmioRead (readChannelReg .dasb c) s

/-- Write of DASB[c] (R248). -/
def execWDasb (c : Chan) (s : State) : Host.Outcome State Fault Refusal :=
  mmioWrite (writeChannelReg .dasb c) s

/-- Read of A2AL[c] (R249). -/
def execRA2al (c : Chan) (s : State) : Host.Outcome State Fault Refusal :=
  mmioRead (readChannelReg .a2al c) s

/-- Write of A2AL[c] (R249). -/
def execWA2al (c : Chan) (s : State) : Host.Outcome State Fault Refusal :=
  mmioWrite (writeChannelReg .a2al c) s

/-- Read of A2AH[c] (R250). -/
def execRA2ah (c : Chan) (s : State) : Host.Outcome State Fault Refusal :=
  mmioRead (readChannelReg .a2ah c) s

/-- Write of A2AH[c] (R250). -/
def execWA2ah (c : Chan) (s : State) : Host.Outcome State Fault Refusal :=
  mmioWrite (writeChannelReg .a2ah c) s

/-- Read of NTRL[c] (R251). -/
def execRNtrl (c : Chan) (s : State) : Host.Outcome State Fault Refusal :=
  mmioRead (readChannelReg .ntrl c) s

/-- Write of NTRL[c] (R251). -/
def execWNtrl (c : Chan) (s : State) : Host.Outcome State Fault Refusal :=
  mmioWrite (writeChannelReg .ntrl c) s

/-- Read of UNUSED[c] (R252). -/
def execRUnused (c : Chan) (s : State) : Host.Outcome State Fault Refusal :=
  mmioRead (readChannelReg .unused c) s

/-- Write of UNUSED[c] (R252). -/
def execWUnused (c : Chan) (s : State) : Host.Outcome State Fault Refusal :=
  mmioWrite (writeChannelReg .unused c) s

/-- Read of UNUSED[c] at $43cF (R252). -/
def execRUnusedMirror (c : Chan) (s : State) : Host.Outcome State Fault Refusal :=
  mmioRead (readChannelReg .unusedMirror c) s

/-- Write of UNUSED[c] at $43cF (R252). -/
def execWUnusedMirror (c : Chan) (s : State) : Host.Outcome State Fault Refusal :=
  mmioWrite (writeChannelReg .unusedMirror c) s

/-- Read of the unmapped offset $43cC (R253). -/
def execRGapC (c : Chan) (s : State) : Host.Outcome State Fault Refusal :=
  mmioRead (readChannelReg .gapC c) s

/-- Write of the unmapped offset $43cC (R253). -/
def execWGapC (c : Chan) (s : State) : Host.Outcome State Fault Refusal :=
  mmioWrite (writeChannelReg .gapC c) s

/-- Read of the unmapped offset $43cD (R253). -/
def execRGapD (c : Chan) (s : State) : Host.Outcome State Fault Refusal :=
  mmioRead (readChannelReg .gapD c) s

/-- Write of the unmapped offset $43cD (R253). -/
def execWGapD (c : Chan) (s : State) : Host.Outcome State Fault Refusal :=
  mmioWrite (writeChannelReg .gapD c) s

/-- Read of the unmapped offset $43cE (R253). -/
def execRGapE (c : Chan) (s : State) : Host.Outcome State Fault Refusal :=
  mmioRead (readChannelReg .gapE c) s

/-- Write of the unmapped offset $43cE (R253). -/
def execWGapE (c : Chan) (s : State) : Host.Outcome State Fault Refusal :=
  mmioWrite (writeChannelReg .gapE c) s

/-- Read of the no-channel tail (R254). -/
def execRTail (s : State) : Host.Outcome State Fault Refusal := mmioRead readOpenBus s

/-- Write of the no-channel tail (R254). -/
def execWTail (s : State) : Host.Outcome State Fault Refusal := mmioWrite ignoreWrite s

end Sys2Proof.Machine
end

