-- ==== Sys2Proof/Machine/BusOps.lean ====
section
/-! DEFINITION. The CPU bus operations and their meanings (spec 41_bus_arbiter R180 to R192). -/

namespace Sys2Proof.Machine

/-- A CPU read (R183 to R185): the access at its start time, then its cost; the byte goes to the CPU. -/
def cpuRead (a : Addr) (s : State) : Run Unit :=
  (memRead a s).bind fun v s1 =>
    .ok () { s1 with ahead := s1.ahead + waitState s a, cpuByte := v }

/-- A CPU write (R187): the access at its start time, then its cost, computed before it (R234). -/
def cpuWrite (a : Addr) (v : Byte) (s : State) : Run Unit :=
  (memWrite a v s).bind fun _ s1 => .ok () { s1 with ahead := s1.ahead + waitState s a }

/-- FETCH (R183). -/
def fetchOp (a : Addr) (s : State) : Run Unit := cpuRead a s

/-- READ_OPERAND (R184). -/
def readOperandOp (a : Addr) (s : State) : Run Unit := cpuRead a s

/-- MEMORY_LOAD (R185). -/
def memoryLoadOp (a : Addr) (s : State) : Run Unit := cpuRead a s

/-- MEMORY_STORE (R187). -/
def memoryStoreOp (a : Addr) (v : Byte) (s : State) : Run Unit := cpuWrite a v s

/-- DUMMY_READ (R188): a full read whose byte the CPU discards. -/
def dummyReadOp (a : Addr) (s : State) : Run Unit :=
  (memRead a s).bind fun _ s1 => .ok () { s1 with ahead := s1.ahead + waitState s a }

/-- IDLE (R189). -/
def idleOp (s : State) : Run Unit := .ok () { s with ahead := s.ahead + s.cfg.idleCycles }

/-- HALT (R190). -/
def haltOp (s : State) : Run Unit := .ok () { s with cpuState := .waiting }

/-- STOP (R191). -/
def stopOp (s : State) : Run Unit := .ok () { s with cpuState := .stopped }

/-- NMI_ACK (R192). -/
def nmiAckOp (s : State) : Run Unit := .ok () { s with nmiRequest := false }

/-- FETCH (R183). -/
def execFetch (a : Addr) (s : State) : Host.Outcome State Fault Refusal := unlessFaulted s (fetchOp a s)

/-- READ_OPERAND (R184). -/
def execReadOperand (a : Addr) (s : State) : Host.Outcome State Fault Refusal :=
  unlessFaulted s (readOperandOp a s)

/-- MEMORY_LOAD (R185). -/
def execMemoryLoad (a : Addr) (s : State) : Host.Outcome State Fault Refusal :=
  unlessFaulted s (memoryLoadOp a s)

/-- MEMORY_STORE (R187). -/
def execMemoryStore (a : Addr) (v : Byte) (s : State) : Host.Outcome State Fault Refusal :=
  unlessFaulted s (memoryStoreOp a v s)

/-- DUMMY_READ (R188). -/
def execDummyRead (a : Addr) (s : State) : Host.Outcome State Fault Refusal :=
  unlessFaulted s (dummyReadOp a s)

/-- IDLE (R189). -/
def execIdle (s : State) : Host.Outcome State Fault Refusal := unlessFaulted s (idleOp s)

/-- HALT (R190). -/
def execHalt (s : State) : Host.Outcome State Fault Refusal := unlessFaulted s (haltOp s)

/-- STOP (R191). -/
def execStop (s : State) : Host.Outcome State Fault Refusal := unlessFaulted s (stopOp s)

/-- NMI_ACK (R192). -/
def execNmiAck (s : State) : Host.Outcome State Fault Refusal := unlessFaulted s (nmiAckOp s)

/-- A request of the CPU port, performed by R183 to R192. A word that is no BUSOP is refused (R146). -/
def performOp (i : Instr) (s : State) : Run Unit :=
  match i with
  | .fetch a => fetchOp a s
  | .readOperand a => readOperandOp a s
  | .memoryLoad a => memoryLoadOp a s
  | .memoryStore a v => memoryStoreOp a v s
  | .dummyRead a => dummyReadOp a s
  | .idle => idleOp s
  | .halt => haltOp s
  | .stop => stopOp s
  | .nmiAck => nmiAckOp s
  | _ => .refused .badCommand

end Sys2Proof.Machine
end

