-- ==== Sys2Proof/Machine/Gdma.lean ====
section
/-! DEFINITION. The GDMA sequencer, the callback of EV_DMA (spec 43_gdma R292 to R306). -/

namespace Sys2Proof.Machine

/-- The highest-index enabled channel (R292). -/
def highestEnabled (enables : Byte) : Option Chan :=
  allChannels.reverse.find? fun c => enables.getLsbD c.val

/-- The first of some register bytes of a channel not written since reset (R295, R321, R322). -/
def firstUnwritten (ch : Channel) (rs : List Nat) : Option Nat := rs.find? fun r => !isWritten ch r

/-- `mdmaen[c] <- 0` (R300, R321). -/
def disableGdma (c : Chan) (s : State) : State := { s with mdmaen := s.mdmaen &&& ~~~(1#8 <<< c.val) }

/-- One byte between A-bus address `a` and B-bus register `b`, in the channel's direction (R297). -/
def moveByte (ch : Channel) (a : Addr) (b : Byte) (s : State) : Run Unit :=
  if toABus ch then (bRead b s).bind fun v s1 => memWrite a v s1
  else (memRead a s).bind fun v s1 => bWrite b v s1

/-- `GdmaSelect(t0)` (R295): the next channel, or the end of the sequence (R301). -/
def gdmaSelect (t0 : Nat) (s : State) : Run Unit :=
  match highestEnabled s.mdmaen with
  | none => .ok () { s with gdmaPhase := .idle, gdmaActive := false }
  | some c =>
    if s.hdmaen.getLsbD c.val && !(channel s c).hdmaTerminated then .refused (.gdmaHdmaSameChannel c)
    else match firstUnwritten (channel s c) [0, 1, 2, 3, 4, 5, 6] with
    | some r => .refused (.unwritten c r)
    | none =>
      if patternFaults (channel s c) then
        raiseFault .dmaPattern (.pattern c (patternOf (channel s c))) s
      else
        .ok () (scheduleAt .dma (t0 + s.cfg.dmaChannel)
          { s with gdmaChannel := c, gdmaIndex := 0, gdmaPhase := .transfer })

/-- What `GdmaTransfer` does once the byte of channel `c` has moved: address step, index, counter,
completion, next step (R296, R298 to R300). -/
def gdmaAfterByte (t0 : Nat) (c : Chan) (s : State) : State :=
  let ch := channel s c
  let s1 := setChannel c { ch with a1t := stepA1t ch, das := ch.das - 1 } { s with gdmaIndex := s.gdmaIndex + 1 }
  let s2 : State := if ch.das - 1 = 0 then { disableGdma c s1 with gdmaPhase := .select } else s1
  scheduleAt .dma (t0 + s.cfg.dmaByte) s2

/-- `GdmaTransfer(t0)` (R296): one byte, or, for a cancelled channel, straight to the select (R302). DESIGN CHOICE
(log 26): a pattern that an MMIO word presented alone has made 4 or 5 after the selection is not checked again, and the
byte moves by the offsets R129 lists. -/
def gdmaTransfer (t0 : Nat) (s : State) : Run Unit :=
  let c := s.gdmaChannel
  let ch := channel s c
  if !s.mdmaen.getLsbD c.val then gdmaSelect t0 s
  else if dmaRegWindow (gdmaAddr ch) then .refused (.dmaRegWindow c (gdmaAddr ch))
  else (moveByte ch (gdmaAddr ch) (unitAddr ch s.gdmaIndex) s).bind fun _ s1 =>
    .ok () (gdmaAfterByte t0 c s1)

/-- `GdmaStep(late)` (R294). -/
def gdmaStep (late : Nat) (s : State) : Run Unit :=
  let t0 := s.committed - late
  match s.gdmaPhase with
  | .select => gdmaSelect t0 s
  | .transfer => gdmaTransfer t0 s
  | .idle => raiseFault .invariant .dmaWhileIdle s

end Sys2Proof.Machine
end

