-- ==== Sys2Proof/Machine/Hdma.lean ====
section
/-! DEFINITION. HDMA: the per-frame reload and the per-scanline burst (spec 44_hdma R320 to R334). -/

namespace Sys2Proof.Machine

/-- `HdmaFetch(c)` (R322): one table byte; the cursor moves past it, within its bank. -/
def hdmaFetch (c : Chan) (s : State) : Run Byte :=
  let a := tableAddr (channel s c)
  if dmaRegWindow a then .refused (.dmaRegWindow c a)
  else (memRead a s).bind fun v s1 =>
    .ok v (setChannel c { channel s1 c with a2a := (channel s1 c).a2a + 1 } s1)

/-- The 2-byte pointer of an indirect entry, low byte first, into `DAS[c]` (R322). -/
def hdmaPointer (c : Chan) (s : State) : Run Unit :=
  (hdmaFetch c s).bind fun lo s1 =>
    (hdmaFetch c s1).bind fun hi s2 =>
      .ok () (setChannel c (markWritten 6 (markWritten 5 { channel s2 c with das := hi ++ lo })) s2)

/-- What `HdmaReload` does with a header byte `h`: end of table (R329), or a new entry; the cycles the
reload costs (R322, R330). -/
def hdmaHeader (c : Chan) (h : Byte) (s : State) : Run Nat :=
  let s1 := setChannel c (markWritten 10 { channel s c with ntrl := h }) s
  if h = 0 then
    .ok s.cfg.hdmaHeader
      (setChannel c { channel s1 c with hdmaTerminated := true, hdmaDoTransfer := false } s1)
  else if indirect (channel s1 c) then
    (hdmaPointer c s1).bind fun _ s2 =>
      .ok (s.cfg.hdmaHeader + s.cfg.hdmaPointer)
        (setChannel c { channel s2 c with hdmaDoTransfer := true } s2)
  else .ok s.cfg.hdmaHeader (setChannel c { channel s1 c with hdmaDoTransfer := true } s1)

/-- `HdmaReload(c)` (R322). -/
def hdmaReload (c : Chan) (s : State) : Run Nat :=
  match firstUnwritten (channel s c) [0, 4, 8, 9] with
  | some r => .refused (.unwritten c r)
  | none => (hdmaFetch c s).bind fun h s1 => hdmaHeader c h s1

/-- The A-bus address of the next data byte of channel `c`, and the state with the cursor or the pointer
past it: direct data stand in the table (R326), indirect data at the pointer (R327). Indirect data need DASB
(R325), and DASL and DASH, which a channel switched to indirect mode in mid-frame may never have had (R47, R466;
log 31). -/
def hdmaDataAddr (c : Chan) (s : State) : Run Addr :=
  let ch := channel s c
  if indirect ch then
    match firstUnwritten ch [7, 5, 6] with
    | some r => .refused (.unwritten c r)
    | none => .ok (indirectAddr ch) (setChannel c { ch with das := ch.das + 1 } s)
  else .ok (tableAddr ch) (setChannel c { ch with a2a := ch.a2a + 1 } s)

/-- One byte of an HDMA unit, byte `i` (R325). -/
def hdmaByte (c : Chan) (i : Nat) (s : State) : Run Unit :=
  let b := unitAddr (channel s c) i
  (hdmaDataAddr c s).bind fun a s1 =>
    if dmaRegWindow a then .refused (.dmaRegWindow c a)
    else moveByte (channel s1 c) a b s1

/-- The bytes `i`, `i + 1`, … of a unit, `n` of them (R325). -/
def hdmaBytes (c : Chan) (i : Nat) : Nat → State → Run Unit
  | 0, s => .ok () s
  | n + 1, s => (hdmaByte c i s).bind fun _ s1 => hdmaBytes c (i + 1) n s1

/-- `HdmaUnit(c)` (R325): one unit of the pattern, and its cost. -/
def hdmaUnit (c : Chan) (s : State) : Run Nat :=
  let ch := channel s c
  if !isWritten ch 1 then .refused (.unwritten c 1)
  else if patternFaults ch then raiseFault .dmaPattern (.pattern c (patternOf ch)) s
  else (hdmaBytes c 0 (unitLength (patternOf ch)) s).bind fun _ s1 =>
    .ok (unitLength (patternOf ch) * s.cfg.hdmaByte) s1

/-- What a burst or a reload has found so far: whether a channel was active, and the cost (R321, R324). -/
structure Burst where
  any  : Bool
  cost : Nat
deriving DecidableEq, Repr

/-- Handle some channels in order (R331), accumulating. -/
def forChannels (f : Chan → Burst → State → Run Burst) : List Chan → Burst → State → Run Burst
  | [], b, s => .ok b s
  | c :: rest, b, s => (f c b s).bind fun b1 s1 => forChannels f rest b1 s1

/-- The stall of a burst or reload that found an active channel (R330). -/
def burstStall (b : Burst) (s : State) : State :=
  if b.any then stallBegin (s.cfg.hdmaOverhead + b.cost) s else s

/-- `HdmaInit` for one channel (R321). -/
def hdmaInitChannel (c : Chan) (b : Burst) (s : State) : Run Burst :=
  let ch := channel s c
  if s.hdmaen.getLsbD c.val then
    match firstUnwritten ch [2, 3] with
    | some r => .refused (.unwritten c r)
    | none =>
      let started := { markWritten 9 (markWritten 8 { ch with a2a := ch.a1t }) with hdmaTerminated := false }
      (hdmaReload c (setChannel c started (disableGdma c s))).bind fun cost s1 =>
        .ok ⟨true, b.cost + cost⟩ s1
  else .ok b (setChannel c { ch with hdmaTerminated := true, hdmaDoTransfer := false } s)

/-- `HdmaInit()`, the per-frame reload (R321). -/
def hdmaInit (s : State) : Run Unit :=
  (forChannels hdmaInitChannel allChannels ⟨false, 0⟩ s).bind fun b s1 => .ok () (burstStall b s1)

/-- The unit step of a line burst: a unit if the repeat window allows (R324). -/
def hdmaUnitStep (c : Chan) (s : State) : Run Nat :=
  if (channel s c).hdmaDoTransfer then hdmaUnit c s else .ok 0 s

/-- The line counting of R328: the count falls, the repeat bit decides the next line, and a finished
entry is reloaded at once. -/
def hdmaCount (c : Chan) (s : State) : Run Nat :=
  let n := (channel s c).ntrl - 1
  let s1 := setChannel c { channel s c with ntrl := n, hdmaDoTransfer := n.getLsbD 7 } s
  if n.extractLsb' 0 7 = 0 then hdmaReload c s1 else .ok 0 s1

/-- `HdmaLine` for one channel (R324). -/
def hdmaLineChannel (c : Chan) (b : Burst) (s : State) : Run Burst :=
  if s.hdmaen.getLsbD c.val && !(channel s c).hdmaTerminated then
    (hdmaUnitStep c s).bind fun unitCost s1 =>
      (hdmaCount c s1).bind fun reloadCost s2 =>
        .ok ⟨true, b.cost + (s.cfg.hdmaChannel + unitCost + reloadCost)⟩ s2
  else .ok b s

/-- `HdmaLine()`, the per-scanline burst (R324). -/
def hdmaLine (s : State) : Run Unit :=
  (forChannels hdmaLineChannel allChannels ⟨false, 0⟩ s).bind fun b s1 => .ok () (burstStall b s1)

end Sys2Proof.Machine
end

