-- ==== Sys2Proof/Machine/Video.lean ====
section
/-! DEFINITION. The video timing controller, the callback of EV_VIDEO, with the IRQ comparator
(spec 45_video_timing R350 to R367, 60_exceptions R419, R420). -/

namespace Sys2Proof.Machine

/-- The counters move by one dot; a scanline wrap and a frame wrap follow (R351, R352). -/
def advancePosition (s : State) : State :=
  if s.dot + 1 = s.cfg.dots then
    if s.scanline + 1 = s.cfg.lines then { s with dot := 0, scanline := 0, field := !s.field }
    else { s with dot := 0, scanline := s.scanline + 1 }
  else { s with dot := s.dot + 1 }

/-- `VblankEnter()` (R362). -/
def vblankEnter (s : State) : State :=
  { nmiEdgeEval { s with vblank := true, nmiFlag := true } with
    frameCounter := s.frameCounter + 1
    frameDone := true }

/-- `VblankExit()` (R363). -/
def vblankExit (s : State) : State := nmiEdgeEval { s with vblank := false, nmiFlag := false }

/-- `JoyStart(t0)` (R357). -/
def joyStart (t0 : Nat) (s : State) : State :=
  scheduleAt .joy (t0 + s.cfg.joyBusyCycles)
    { s with autoJoyBusy := true, joy := #v[s.joyInput[0], s.joyInput[1], 0x0000, 0x0000] }

/-- `HblankStart(v)` (R360). -/
def hblankStart (v : Nat) (s : State) : State :=
  if v < s.cfg.vblankLine then emit (.composeScanline v) { s with hblank := true }
  else { s with hblank := true }

/-- An action of the list, if its position is reached. -/
def actionIf (cond : Bool) (f : State → State) (s : State) : Run Unit := .ok () (if cond then f s else s)

/-- `DotActions(t0)` at the new position, in the order of R353; a fault stops the list. -/
def dotActions (t0 : Nat) (s : State) : Run Unit :=
  let v := s.scanline
  let d := s.dot
  let p := s.cfg
  (actionIf (d == 0 && v == p.vblankLine) vblankEnter s).bind fun _ s1 =>
  (actionIf (d == 0 && v == 0) vblankExit s1).bind fun _ s2 =>
  (actionIf (d == p.hblankClearDot) (fun s => { s with hblank := false }) s2).bind fun _ s3 =>
  (if v == 0 && d == p.hdmaInitDot then hdmaInit s3 else .ok () s3).bind fun _ s4 =>
  (actionIf (v == p.vblankLine && d == p.oamReloadDot) (emit .oamReload) s4).bind fun _ s5 =>
  (actionIf (v == p.vblankLine && d == p.joyDot && autoJoyEnable s5) (joyStart t0) s5).bind fun _ s6 =>
  (actionIf (d == p.refreshDot) (stallBegin p.refreshCycles) s6).bind fun _ s7 =>
  (actionIf (d == p.hblankDot) (hblankStart v) s7).bind fun _ s8 =>
  if v < p.vblankLine && d == p.hdmaLineDot then hdmaLine s8 else .ok () s8

/-- The match of the H/V comparator (R419). -/
def irqMatch (s : State) : Bool :=
  match (irqMode s).toNat with
  | 1 => s.dot == s.htime.toNat
  | 2 => s.scanline == s.vtime.toNat && s.dot == 0
  | 3 => s.scanline == s.vtime.toNat && s.dot == s.htime.toNat
  | _ => false

/-- `IrqCompare(t0)` (R419, R420). -/
def irqCompare (t0 : Nat) (s : State) : State :=
  if irqMatch s then scheduleAt .irq (t0 + s.cfg.irqLatency) s else s

/-- `VideoTick(late)` (R351): the counters move first; the event is requeued relative to its own time
(R367), unless a fault stopped the tick. -/
def videoTick (late : Nat) (s : State) : Run Unit :=
  let t0 := s.committed - late
  (dotActions t0 (advancePosition s)).bind fun _ s1 =>
    .ok () (scheduleAt .video (t0 + s1.cfg.dotCycles) (irqCompare t0 s1))

end Sys2Proof.Machine
end

