-- ==== Sys2Proof/Machine/Callbacks.lean ====
section
/-! DEFINITION. Dispatching an event: the callbacks of the five events, firing one, and the meanings of the
EVENT rows (spec 10_state R32, 40_scheduler R161, R168, R169, 41 R196, 45 R358, 60 R421). -/

namespace Sys2Proof.Machine

/-- `IrqAssert(late)` (R421). -/
def irqAssert (s : State) : Run Unit :=
  .ok () (if irqMode s ≠ 0 then { s with irqFlag := true } else s)

/-- `StallEnd(late)` (R196). -/
def stallEnd (s : State) : Run Unit := .ok () { s with stallActive := false }

/-- `JoyEnd(late)` (R358). -/
def joyEnd (s : State) : Run Unit := .ok () { s with autoJoyBusy := false }

/-- `dispatch(e, late)` (R169). A callback that would run with `ahead` not 0 finds R67 (e) broken
(R415; log 17). -/
def dispatch (e : EventId) (late : Nat) (s : State) : Run Unit :=
  if s.ahead ≠ 0 then raiseFault .invariant (.broken (.aheadZero s.ahead)) s
  else match e with
  | .irq => irqAssert s
  | .video => videoTick late s
  | .dma => gdmaStep late s
  | .stall => stallEnd s
  | .joy => joyEnd s

/-- The lateness of an event (R161): `committed - when` for a queued event; an unqueued event's `when` is
never read (R32; log 16). -/
def lateness (s : State) (e : EventId) : Nat :=
  if (event s e).queued then s.committed - (event s e).when else 0

/-- Which event's callback is running, if one is (log 24). -/
def setCurrent (e : Option EventId) (s : State) : State := { s with current := e }

/-- The callback is over: no event is current (log 24). -/
def callbackDone (r : Run Unit) : Run Unit :=
  match r with
  | .ok _ s => .ok () (setCurrent none s)
  | .raised s => .raised (setCurrent none s)
  | .stuck f => .stuck f
  | .refused r => .refused r

/-- Fire an event (R168): it leaves the queue, then its callback runs with its lateness. -/
def fireEvent (e : EventId) (s : State) : Run Unit :=
  callbackDone (dispatch e (lateness s e) (setCurrent (some e) (deschedule e s)))

/-- EV_IRQ (R421). -/
def execEvIrq (s : State) : Host.Outcome State Fault Refusal := unlessFaulted s (fireEvent .irq s)

/-- EV_VIDEO (R351). -/
def execEvVideo (s : State) : Host.Outcome State Fault Refusal := unlessFaulted s (fireEvent .video s)

/-- EV_DMA (R294). -/
def execEvDma (s : State) : Host.Outcome State Fault Refusal := unlessFaulted s (fireEvent .dma s)

/-- EV_STALL (R196). -/
def execEvStall (s : State) : Host.Outcome State Fault Refusal := unlessFaulted s (fireEvent .stall s)

/-- EV_JOY (R358). -/
def execEvJoy (s : State) : Host.Outcome State Fault Refusal := unlessFaulted s (fireEvent .joy s)

end Sys2Proof.Machine
end

