-- ==== Sys2Proof/Machine/Scheduler.lean ====
section
/-! DEFINITION. Advance and its drain, and the meanings of the scheduler commands
(spec 40_scheduler R162 to R172). -/

namespace Sys2Proof.Machine

/-- The first event of the queue, if it is due at `committed` (R168). -/
def dueEvent (s : State) : Option EventId :=
  match (queue s).head? with
  | none => none
  | some e => if (event s e).when ≤ s.committed then some e else none

/-- More events than the drain of a valid parameter record fires: each cycle holds at most one EV_VIDEO,
EV_IRQ, EV_STALL and EV_JOY and eight channels' worth of bytes (log 21). -/
def drainFuel (s : State) : Nat := 2 ^ 20 * (s.committed + 2)

/-- The drain of R168: while the first event is due, it fires; a fault stops it. -/
def drain : Nat → State → Run Unit
  | 0, s => match dueEvent s with
    | none => .ok () s
    | some _ => .stuck .drainDiverges
  | k + 1, s => match dueEvent s with
    | none => .ok () s
    | some e => (fireEvent e s).bind fun _ s1 => drain k s1

/-- `n` cycles are committed, the uncommitted ones among them (R168). -/
def commit (n : Nat) (s : State) : State := { s with committed := s.committed + n, ahead := 0 }

/-- `Advance(n)` (R168): commits `n` cycles and drains. -/
def advance (n : Nat) (s : State) : Run Unit :=
  if n < s.ahead then raiseFault .invariant (.advanceBelowAhead n s.ahead) s
  else drain (drainFuel (commit n s)) (commit n s)

/-- SCHEDULE (R163). -/
def execSchedule (e : EventId) (d : BitVec 48) (s : State) : Host.Outcome State Fault Refusal :=
  unlessFaulted s (.ok () (schedule e d.toNat s))

/-- RESCHEDULE (R164). -/
def execReschedule (e : EventId) (d : BitVec 48) (s : State) : Host.Outcome State Fault Refusal :=
  unlessFaulted s (.ok () (reschedule e d.toNat s))

/-- DESCHEDULE (R165). -/
def execDeschedule (e : EventId) (s : State) : Host.Outcome State Fault Refusal :=
  unlessFaulted s (.ok () (deschedule e s))

/-- SCHEDULE_AT (R162). -/
def execScheduleAt (e : EventId) (t : BitVec 48) (s : State) : Host.Outcome State Fault Refusal :=
  unlessFaulted s (.ok () (scheduleAt e t.toNat s))

/-- The delay `Advance` returns is the host's reply, also when a fault ended it (R168, R170). -/
def replyDelay (r : Run Unit) : Run Unit :=
  match r with
  | .ok _ s => .ok () { s with reply := .delay (nextDelay s) }
  | .raised s => .raised { s with reply := .delay none }
  | .stuck f => .stuck f
  | .refused r => .refused r

/-- ADVANCE (R168). In the fault state it commits nothing and returns NONE (R168, R398; log 18). -/
def execAdvance (n : BitVec 48) (s : State) : Host.Outcome State Fault Refusal :=
  if s.fault.isSome then .next { s with reply := .delay none } else (replyDelay (advance n.toNat s)).outcome

/-- ANY_EVENT_DUE (R167): a returned bit, no change of the block (log 22); also in the fault state, where it has
no effect to lose (R398; log 18). -/
def execAnyEventDue (s : State) : Host.Outcome State Fault Refusal := .next { s with reply := .bit (anyEventDue s) }

end Sys2Proof.Machine
end

