-- ==== Sys2Proof/Machine/RunLoop.lean ====
section
/-! DEFINITION. The arbiter's grant, the run-loop step, and the host operations
(spec 41_bus_arbiter R193 to R200, 46_host R390 to R399, 10_state R67). -/

namespace Sys2Proof.Machine

/-- Does a run-loop step come to its last case, which needs the horizon (R197)? -/
def chargesInBulk (s : State) : Bool :=
  !anyEventDue s && !(s.cpuState == .waiting && wakeCondition s) && !(s.cpuState == .running && !busBlock s)

/-- The first clause of R67 (a) to (d) a run-loop step finds broken, if any, with the values involved (R415;
log 17). (c) holds "except in the fault state", where no step is taken; an empty queue in a step that needs the
horizon is left to the step's own check of it (R172, R197). -/
def brokenInvariant (s : State) : Option Invariant :=
  if s.gdmaActive ≠ (s.gdmaPhase != .idle) then some (.gdmaActive s.gdmaActive s.gdmaPhase)
  else if s.stallActive ≠ ((event s .stall).queued && (event s .stall).when == s.stallUntil) then
    some (.stallActive s.stallActive (event s .stall).queued (event s .stall).when s.stallUntil)
  else if !(event s .video).queued && !((queue s).isEmpty && chargesInBulk s) then some (.videoQueued (queue s))
  else if ¬ (s.dot < s.cfg.dots ∧ s.scanline < s.cfg.lines) then
    some (.position s.dot s.cfg.dots s.scanline s.cfg.lines)
  else none

/-- Perform the request the CPU presents, once it has sampled its interrupt inputs if it is at a boundary
(R423): decoded as a BUSOP word (R180, R197); then the CPU goes on. -/
def performNext (s : State) : Run Unit :=
  match decodeBusop ((presented (takeInterrupt s)).word.setWidth 64) with
  | .ok i => (performOp i (takeInterrupt s)).bind fun _ s1 => .ok () (cpuAdvance s1)
  | .error _ => .refused .badCommand

/-- Charge a blocked, waiting or stopped CPU in bulk to the next event (R197, R172). -/
def bulkAdvance (s : State) : Run Unit :=
  match horizon s with
  | none => raiseFault .invariant .emptyQueue s
  | some h => advance (h - s.committed) s

/-- The run-loop step (R197), with the invariant check of R67 at its start. -/
def runStep (s : State) : Run Unit :=
  if s.fault.isSome then .ok () s
  else match brokenInvariant s with
  | some clause => raiseFault .invariant (.broken clause) s
  | none =>
    if anyEventDue s then advance s.ahead s
    else if s.cpuState == .waiting && wakeCondition s then .ok () { s with cpuState := .running }
    else if s.cpuState == .running && !busBlock s then performNext s
    else bulkAdvance s

/-- STEP (R197). -/
def execStepOnce (s : State) : Host.Outcome State Fault Refusal := (runStep s).outcome

/-- How many run-loop steps a host call may take before the model gives up on its return (R399;
log 21). -/
def callFuel : Nat := 2 ^ 64

/-- The loop of RUN_FRAME (R392). -/
def frameLoop : Nat → State → Run Unit
  | 0, s => if s.frameDone || s.fault.isSome then .ok () s else .stuck .callDoesNotReturn
  | k + 1, s =>
    if s.frameDone || s.fault.isSome then .ok () s
    else (runStep s).bind fun _ s1 => frameLoop k s1

/-- RUN_FRAME (R392). -/
def execRunFrame (s : State) : Host.Outcome State Fault Refusal :=
  if s.paused || s.fault.isSome then .next s
  else (frameLoop callFuel { s with frameDone := false }).outcome

/-- RUN_INSTRUCTION returns at an instruction boundary, or halted or stopped, once an operation has been
performed (R393). -/
def instructionOver (performed : Bool) (s : State) : Bool :=
  s.fault.isSome || (performed && ((presented s).atFetch || s.cpuState != .running))

/-- The loop of RUN_INSTRUCTION (R393). -/
def instructionLoop : Nat → Bool → State → Run Unit
  | 0, performed, s => if instructionOver performed s then .ok () s else .stuck .callDoesNotReturn
  | k + 1, performed, s =>
    if instructionOver performed s then .ok () s
    else (runStep s).bind fun _ s1 => instructionLoop k (performed || granted s) s1

/-- RUN_INSTRUCTION (R393). -/
def execRunInstruction (s : State) : Host.Outcome State Fault Refusal :=
  if s.paused || s.fault.isSome then .next s
  else if s.cpuState ≠ .running then (runStep s).outcome
  else (instructionLoop callFuel false s).outcome

/-- RESET (R391, R460): accepted in every state; a parameter record that breaks R6 is refused. -/
def execReset (s : State) : Host.Outcome State Fault Refusal :=
  if s.cfg.Valid then .next (resetBlock s) else .refused .badConfig

/-- SET_KEY (R394). -/
def execSetKey (bit : BitVec 4) (port : BitVec 1) (pressed : Bool) (s : State) :
    Host.Outcome State Fault Refusal :=
  if keyBitOk bit then
    unlessFaulted s (.ok () { s with
      joyInput := s.joyInput.set port.toNat (withKey s.joyInput[port.toNat] bit pressed) })
  else .refused .badCommand

/-- PAUSE (R395). -/
def execPause (s : State) : Host.Outcome State Fault Refusal :=
  unlessFaulted s (.ok () { s with paused := true })

/-- RESUME (R395). -/
def execResume (s : State) : Host.Outcome State Fault Refusal :=
  unlessFaulted s (.ok () { s with paused := false })

/-- IS_PAUSED (R395): a returned bit, no change of the block (log 22); also in the fault state, where it has no
effect to lose (R398; log 18). -/
def execIsPaused (s : State) : Host.Outcome State Fault Refusal := .next { s with reply := .bit s.paused }

end Sys2Proof.Machine
end

