-- ==== Sys2Proof/Machine/Dispatch.lean ====
section
/-! DEFINITION. The meaning of every instruction: one arm per row of opcode_table.json. -/

namespace Sys2Proof.Machine

def exec (i : Instr) (s : State) : Host.Outcome State Fault Refusal :=
  match i with
  | .fetch a => Sys2Proof.Machine.execFetch a s
  | .readOperand a => Sys2Proof.Machine.execReadOperand a s
  | .memoryLoad a => Sys2Proof.Machine.execMemoryLoad a s
  | .memoryStore a v => Sys2Proof.Machine.execMemoryStore a v s
  | .dummyRead a => Sys2Proof.Machine.execDummyRead a s
  | .idle => Sys2Proof.Machine.execIdle s
  | .halt => Sys2Proof.Machine.execHalt s
  | .stop => Sys2Proof.Machine.execStop s
  | .nmiAck => Sys2Proof.Machine.execNmiAck s
  | .rSlhv _ => Sys2Proof.Machine.execRSlhv s
  | .wSlhv _ => Sys2Proof.Machine.execWSlhv s
  | .rOphct _ => Sys2Proof.Machine.execROphct s
  | .wOphct _ => Sys2Proof.Machine.execWOphct s
  | .rOpvct _ => Sys2Proof.Machine.execROpvct s
  | .wOpvct _ => Sys2Proof.Machine.execWOpvct s
  | .rStat78 _ => Sys2Proof.Machine.execRStat78 s
  | .wStat78 _ => Sys2Proof.Machine.execWStat78 s
  | .rNmitimen _ => Sys2Proof.Machine.execRNmitimen s
  | .wNmitimen _ => Sys2Proof.Machine.execWNmitimen s
  | .rWrio _ => Sys2Proof.Machine.execRWrio s
  | .wWrio _ => Sys2Proof.Machine.execWWrio s
  | .rHtimel _ => Sys2Proof.Machine.execRHtimel s
  | .wHtimel _ => Sys2Proof.Machine.execWHtimel s
  | .rHtimeh _ => Sys2Proof.Machine.execRHtimeh s
  | .wHtimeh _ => Sys2Proof.Machine.execWHtimeh s
  | .rVtimel _ => Sys2Proof.Machine.execRVtimel s
  | .wVtimel _ => Sys2Proof.Machine.execWVtimel s
  | .rVtimeh _ => Sys2Proof.Machine.execRVtimeh s
  | .wVtimeh _ => Sys2Proof.Machine.execWVtimeh s
  | .rMdmaen _ => Sys2Proof.Machine.execRMdmaen s
  | .wMdmaen bank => Sys2Proof.Machine.execWMdmaen bank s
  | .rHdmaen _ => Sys2Proof.Machine.execRHdmaen s
  | .wHdmaen _ => Sys2Proof.Machine.execWHdmaen s
  | .rMemsel _ => Sys2Proof.Machine.execRMemsel s
  | .wMemsel _ => Sys2Proof.Machine.execWMemsel s
  | .rRdnmi _ => Sys2Proof.Machine.execRRdnmi s
  | .wRdnmi _ => Sys2Proof.Machine.execWRdnmi s
  | .rTimeup _ => Sys2Proof.Machine.execRTimeup s
  | .wTimeup _ => Sys2Proof.Machine.execWTimeup s
  | .rHvbjoy _ => Sys2Proof.Machine.execRHvbjoy s
  | .wHvbjoy _ => Sys2Proof.Machine.execWHvbjoy s
  | .rJoy1l _ => Sys2Proof.Machine.execRJoy1l s
  | .wJoy1l _ => Sys2Proof.Machine.execWJoy1l s
  | .rJoy1h _ => Sys2Proof.Machine.execRJoy1h s
  | .wJoy1h _ => Sys2Proof.Machine.execWJoy1h s
  | .rJoy2l _ => Sys2Proof.Machine.execRJoy2l s
  | .wJoy2l _ => Sys2Proof.Machine.execWJoy2l s
  | .rJoy2h _ => Sys2Proof.Machine.execRJoy2h s
  | .wJoy2h _ => Sys2Proof.Machine.execWJoy2h s
  | .rJoy3l _ => Sys2Proof.Machine.execRJoy3l s
  | .wJoy3l _ => Sys2Proof.Machine.execWJoy3l s
  | .rJoy3h _ => Sys2Proof.Machine.execRJoy3h s
  | .wJoy3h _ => Sys2Proof.Machine.execWJoy3h s
  | .rJoy4l _ => Sys2Proof.Machine.execRJoy4l s
  | .wJoy4l _ => Sys2Proof.Machine.execWJoy4l s
  | .rJoy4h _ => Sys2Proof.Machine.execRJoy4h s
  | .wJoy4h _ => Sys2Proof.Machine.execWJoy4h s
  | .rDmap _ c => Sys2Proof.Machine.execRDmap c s
  | .wDmap _ c => Sys2Proof.Machine.execWDmap c s
  | .rBbad _ c => Sys2Proof.Machine.execRBbad c s
  | .wBbad _ c => Sys2Proof.Machine.execWBbad c s
  | .rA1tl _ c => Sys2Proof.Machine.execRA1tl c s
  | .wA1tl _ c => Sys2Proof.Machine.execWA1tl c s
  | .rA1th _ c => Sys2Proof.Machine.execRA1th c s
  | .wA1th _ c => Sys2Proof.Machine.execWA1th c s
  | .rA1b _ c => Sys2Proof.Machine.execRA1b c s
  | .wA1b _ c => Sys2Proof.Machine.execWA1b c s
  | .rDasl _ c => Sys2Proof.Machine.execRDasl c s
  | .wDasl _ c => Sys2Proof.Machine.execWDasl c s
  | .rDash _ c => Sys2Proof.Machine.execRDash c s
  | .wDash _ c => Sys2Proof.Machine.execWDash c s
  | .rDasb _ c => Sys2Proof.Machine.execRDasb c s
  | .wDasb _ c => Sys2Proof.Machine.execWDasb c s
  | .rA2al _ c => Sys2Proof.Machine.execRA2al c s
  | .wA2al _ c => Sys2Proof.Machine.execWA2al c s
  | .rA2ah _ c => Sys2Proof.Machine.execRA2ah c s
  | .wA2ah _ c => Sys2Proof.Machine.execWA2ah c s
  | .rNtrl _ c => Sys2Proof.Machine.execRNtrl c s
  | .wNtrl _ c => Sys2Proof.Machine.execWNtrl c s
  | .rUnused _ c => Sys2Proof.Machine.execRUnused c s
  | .wUnused _ c => Sys2Proof.Machine.execWUnused c s
  | .rUnusedMirror _ c => Sys2Proof.Machine.execRUnusedMirror c s
  | .wUnusedMirror _ c => Sys2Proof.Machine.execWUnusedMirror c s
  | .rGapC _ c => Sys2Proof.Machine.execRGapC c s
  | .wGapC _ c => Sys2Proof.Machine.execWGapC c s
  | .rGapD _ c => Sys2Proof.Machine.execRGapD c s
  | .wGapD _ c => Sys2Proof.Machine.execWGapD c s
  | .rGapE _ c => Sys2Proof.Machine.execRGapE c s
  | .wGapE _ c => Sys2Proof.Machine.execWGapE c s
  | .rTail _ _ => Sys2Proof.Machine.execRTail s
  | .wTail _ _ => Sys2Proof.Machine.execWTail s
  | .schedule e d => Sys2Proof.Machine.execSchedule e d s
  | .reschedule e d => Sys2Proof.Machine.execReschedule e d s
  | .deschedule e => Sys2Proof.Machine.execDeschedule e s
  | .advance n => Sys2Proof.Machine.execAdvance n s
  | .anyEventDue => Sys2Proof.Machine.execAnyEventDue s
  | .stepOnce => Sys2Proof.Machine.execStepOnce s
  | .scheduleAt e t => Sys2Proof.Machine.execScheduleAt e t s
  | .reset => Sys2Proof.Machine.execReset s
  | .runFrame => Sys2Proof.Machine.execRunFrame s
  | .runInstruction => Sys2Proof.Machine.execRunInstruction s
  | .setKey bit port pressed => Sys2Proof.Machine.execSetKey bit port pressed s
  | .pause => Sys2Proof.Machine.execPause s
  | .resume => Sys2Proof.Machine.execResume s
  | .isPaused => Sys2Proof.Machine.execIsPaused s
  | .evIrq => Sys2Proof.Machine.execEvIrq s
  | .evVideo => Sys2Proof.Machine.execEvVideo s
  | .evDma => Sys2Proof.Machine.execEvDma s
  | .evStall => Sys2Proof.Machine.execEvStall s
  | .evJoy => Sys2Proof.Machine.execEvJoy s

end Sys2Proof.Machine
end

