-- ==== Sys2Proof/Machine/Fetch.lean ====
section
/-! DEFINITION. How a word that reaches the block's port is taken: the gate of a BUSOP, a word that spells no
instruction (spec 41_bus_arbiter R180, R193, R197, 30_encoding R123, R146; log 12, log 13). -/

namespace Sys2Proof.Machine

/-- Is the instruction a bus operation of the CPU (R121, R122)? -/
def isBusop : Instr → Bool
  | .fetch _ | .readOperand _ | .memoryLoad _ | .memoryStore _ _ | .dummyRead _ => true
  | .idle | .halt | .stop | .nmiAck => true
  | _ => false

/-- A BUSOP word as a request of the CPU. The word carries a bus operation alone (R121), so the CPU's other inputs
are the model's choice: DESIGN CHOICE (log 13): its interrupt mask is the CPU's present one, and `cpuInstrAddr` stays
what the CPU presents, for a FETCH too, held or performed at once. -/
def requestOf (p : Packet) (s : State) : CpuRequest where
  word := p.bits.setWidth 36
  irqDisable := (presented s).irqDisable
  instrAddr := (presented s).instrAddr

/-- Must the word wait at the port? Only a bus operation waits, while it is not granted (R193) or while earlier
words are held there, since the CPU presents one request at a time (R180); not in the fault state, where it has no
effect (R411; log 13, log 18). DESIGN CHOICE (log 14): an MMIO word presented alone never waits, due events or not.
DESIGN CHOICE (log 13): `paused` holds no bus operation back. -/
def mustWait (i : Instr) (s : State) : Bool := isBusop i && !s.fault.isSome && !(granted s && s.port.isEmpty)

/-- A bus operation that must wait is held at the CPU port behind the words held there, and the run loop takes one
step, in which the first of them is the request presented (R180, R193, R197). DESIGN CHOICE (log 13): also while
paused, so time can advance there. -/
def holdBusop (p : Packet) (s : State) : Host.Outcome State Fault Refusal :=
  (runStep { s with port := s.port ++ [requestOf p s] }).outcome

/-- A word that spells no instruction: an MMIO word outside the window is the router's access (R123), every
other one is refused (R146). -/
def noInstruction (e : DecodeError) (s : State) : Host.Outcome State Fault Refusal :=
  match e with
  | .outsideWindow write a => mmioRouter write a s
  | _ => .refused .badCommand

/-- The state once the first waiting word has been taken. -/
def takeWord (rest : List Packet) (s : State) : State := { s with inbox := rest }

end Sys2Proof.Machine
end

