-- ==== Sys2Proof/Machine/Step.lean ====
section
/-! DEFINITION. One step of the machine: it takes the first word waiting at the block's port and runs it
(spec 46_host preamble, 30_encoding R120; log 12, log 13). -/

namespace Sys2Proof.Machine

/-- One step. With no word waiting the block does nothing. DESIGN CHOICE (log 13): a bus operation granted at once
is performed without the run-loop step's look at the clauses of R67, which only STEP and the calls over it make
(log 17), and `paused` gates no word but RUN_FRAME and RUN_INSTRUCTION (R395): a BUSOP, MMIO or EVENT word is taken
while paused too (log 13, log 14, log 16). -/
def step (s : State) : Host.Outcome State Fault Refusal :=
  match s.inbox with
  | [] => .next s
  | p :: rest =>
    match decode p with
    | .ok i =>
      if mustWait i (takeWord rest s) then holdBusop p (takeWord rest s) else exec i (takeWord rest s)
    | .error e => noInstruction e (takeWord rest s)

/-- The state with a word of the opcode table put where `step` takes its next word. -/
def State.withFetchWord (s : State) (nbits w : Nat) : State := { s with inbox := tablePacket nbits w :: s.inbox }

end Sys2Proof.Machine
end

