-- ==== Sys2Proof/Safety.lean ====
section
/-! DEFINITION. The terms the claims use: a live block, the invariants of spec 10_state R67 and their
companions, the position law of 45_video_timing R366, runs of run-loop steps. -/

namespace Sys2Proof.Machine

/-- The block is not in the fault state (R38). -/
abbrev Live (s : State) : Prop := s.fault = none

/-- No queued event has `when` at or before `t`. -/
abbrev NoneDueBy (t : Nat) (s : State) : Prop := ∀ e, (event s e).queued = true → t < (event s e).when

/-- R67 (a): `gdmaActive = 1` exactly when `gdmaPhase != IDLE`. -/
abbrev GdmaAgrees (s : State) : Prop := s.gdmaActive = true ↔ s.gdmaPhase ≠ .idle

/-- R67 (b): `stallActive = 1` exactly when `EV_STALL` is queued with `when = stallUntil`. -/
abbrev StallAgrees (s : State) : Prop :=
  s.stallActive = true ↔ (event s .stall).queued = true ∧ (event s .stall).when = s.stallUntil

/-- R67 (c): `EV_VIDEO` is always queued, except in the fault state. -/
abbrev VideoQueued (s : State) : Prop := Live s → (event s .video).queued = true

/-- R67 (d): `dot < P_DOTS` and `scanline < P_LINES`. -/
abbrev InFrame (s : State) : Prop := s.dot < s.cfg.dots ∧ s.scanline < s.cfg.lines

/-- R67 (f): no queued event has `when < committed`. -/
abbrev NoneBehind (s : State) : Prop := ∀ e, (event s e).queued = true → s.committed ≤ (event s e).when

/-- Joypad data have zeros in bits 3:0 (R138). -/
abbrev JoyClean (s : State) : Prop :=
  (∀ p : Fin 2, s.joyInput[p].extractLsb' 0 4 = 0) ∧ ∀ n : Fin 4, s.joy[n].extractLsb' 0 4 = 0

/-- What every step of every kind keeps: a valid parameter record, canonical router memory, R67 (a) and
(d), clean joypad data. -/
structure Sound (s : State) : Prop where
  valid  : s.cfg.Valid
  memory : MemoryWf s.mem
  gdma   : GdmaAgrees s
  frame  : InFrame s
  joypad : JoyClean s

/-- What every run-loop step keeps: R67 (a) to (d) and (f), and EV_DMA queued only while a GDMA runs
(R294). -/
structure Regular (s : State) : Prop where
  valid  : s.cfg.Valid
  gdma   : GdmaAgrees s
  stall  : StallAgrees s
  video  : VideoQueued s
  frame  : InFrame s
  behind : Live s → NoneBehind s
  dma    : (event s .dma).queued = true → s.gdmaPhase ≠ .idle

/-- R366: after `k` ticks EV_VIDEO is due at the next multiple of P_DOT_CYCLES, and the position is that of
`k` dots from reset. -/
def OnTime (s : State) : Prop :=
  ∃ k : Nat,
    (event s .video).queued = true ∧ (event s .video).when = (k + 1) * s.cfg.dotCycles ∧
    k * s.cfg.dotCycles ≤ s.committed ∧
    s.dot = k % s.cfg.dots ∧ s.scanline = k / s.cfg.dots % s.cfg.lines ∧
    (s.field = true ↔ k / (s.cfg.dots * s.cfg.lines) % 2 = 1)

/-- The dots at which the controller acts, in the order of R353. -/
def actionDots (p : Config.Params) : List Nat :=
  [p.hblankClearDot, p.hdmaInitDot, p.oamReloadDot, p.joyDot, p.refreshDot, p.hblankDot, p.hdmaLineDot]

/-- Dot `d` is the `k`-th of the action dots and no other one; with `k = 7`, none of them. -/
abbrev OnlyDot (p : Config.Params) (d k : Nat) : Prop := ∀ j < 7, (actionDots p)[j]? = some d ↔ j = k

/-- EV_`e` can fire as the scheduler fires it: the block is live, no CPU cycle is uncommitted, the event is queued
and its `when` has been reached (R161, R168). -/
abbrev CanFire (e : EventId) (s : State) : Prop :=
  Live s ∧ s.ahead = 0 ∧ (event s e).queued = true ∧ (event s e).when ≤ s.committed

/-- Run-loop steps that go from one state to another, one after the other, `busy` holding before each
(R392, R393). -/
inductive Steps (busy : State → Prop) : Nat → State → State → Prop where
  | done (s : State) : Steps busy 0 s s
  | more {k : Nat} {s m t : State} : busy s → execStepOnce s = .next m → Steps busy k m t → Steps busy (k + 1) s t

end Sys2Proof.Machine
end

