-- ==== Sys2Proof/Certificates/Slice0/Obligations.lean ====
section
/-! DEFINITION. The statements for the provers. Every statement holds in every state that meets its premises;
one that rests on a free value of the model says nothing about which value it is. -/

open Sys2Proof Sys2Proof.Machine

/-! ## Words -/

/-- R120, R121, R123, R126, R127: no bit of an encoding is dropped. -/
def Obligations.DecodeEncode : Prop :=
  ∀ i : Instr, i.wellFormed = true → decode (encode i) = .ok i

/-- R120: a word the decoder takes matches the row of opcode_table.json of the instruction it gives, and that
instruction is well formed. -/
def Obligations.DecodedWordMatchesItsRow : Prop :=
  ∀ (p : Packet) (i : Instr), decode p = .ok i → (rowOf i).accepts p = true ∧ i.wellFormed = true

/-- R121 to R127, R394, and the programs of 95_test_vectors: some words read from the layouts. -/
def Obligations.WordsReadRight : Prop :=
  decode ⟨.busop, 0x000800000⟩ = .ok (.fetch 0x008000) ∧
  decode ⟨.busop, 0x300420B01⟩ = .ok (.memoryStore 0x00420B 0x01) ∧
  decode ⟨.busop, 0x80FFFFFFF⟩ = .ok .nmiAck ∧
  decode ⟨.mmio, 0x0A02137⟩ = .ok (.rSlhv 0xA0) ∧
  decode ⟨.mmio, 0x1004325⟩ = .ok (.wDasl 0x00 2) ∧
  decode ⟨.mmio, 0x03F43F5⟩ = .ok (.rTail 0x3F 0x75) ∧
  decode ⟨.cmd, 0x010000000000000E⟩ = .ok (.schedule .irq 14) ∧
  decode ⟨.cmd, 0x1300000000000C01⟩ = .ok (.setKey 12 0 true) ∧
  decode ⟨.event, 0x2⟩ = .ok .evDma

/-- R146: the illegal words of three formats are refused; an MMIO word is a row or the router's access (log 15).
The port of SET_KEY is one bit, so no word has a port above 1 (log 19). -/
def Obligations.IllegalWordsAreRefused : Prop :=
  ∀ (s : State) (p : Packet) (rest : List Packet), s.inbox = p :: rest →
    (p.format = .busop → 9 ≤ bitField p.bits 32 4 → step s = .refused .badCommand) ∧
    (p.format = .event → 5 ≤ bitField p.bits 0 4 → step s = .refused .badCommand) ∧
    (p.format = .cmd →
      bitField p.bits 56 8 ∉ [0x01, 0x02, 0x03, 0x04, 0x05, 0x06, 0x07, 0x10, 0x11, 0x12, 0x13, 0x14, 0x15, 0x16] ∨
        bitField p.bits 48 4 ≠ 0 ∨ (bitField p.bits 56 8 = 0x13 ∧ bitField p.bits 8 4 < 4) →
      step s = .refused .badCommand) ∧
    (p.format = .mmio → p.bits.toNat < 2 ^ 25 →
      (∃ i, decode p = .ok i) ∨
      (windowReg (BitVec.ofNat 24 (bitField p.bits 0 24)) = none ∧
        step s = mmioRouter (bitField p.bits 24 1 == 1) (BitVec.ofNat 24 (bitField p.bits 0 24)) { s with inbox := rest }))

/-- A step takes the first waiting word and runs the instruction it decodes to; a bus operation that is not
granted, or that finds earlier words held at the CPU port, is held there behind them while the run loop takes one
step (R180, R193, R197; log 12, log 13). -/
def Obligations.StepRunsTheDecodedInstruction : Prop :=
  ((∀ s : State, s.inbox = [] → step s = .next s) ∧
    ∀ (s : State) (p : Packet) (rest : List Packet) (i : Instr), s.inbox = p :: rest → decode p = .ok i →
      (isBusop i = false ∨ s.fault ≠ none ∨ (granted s = true ∧ s.port = []) →
        step s = exec i { s with inbox := rest }) ∧
      (isBusop i = true → s.fault = none → (granted s = false ∨ s.port ≠ []) →
        step s = exec .stepOnce { s with
          inbox := rest, port := s.port ++ [requestOf p { s with inbox := rest }] })) ∧
  (∀ s : State, granted s = true ↔
      s.fault = none ∧ s.cpuState = .running ∧
      (∀ e, (event s e).queued = true → s.committed + s.ahead < (event s e).when) ∧
      s.gdmaActive = false ∧ s.stallActive = false)

/-- R92, R91: the block window is the listed offsets of the system banks, and a register is reached at the same
offset of every system bank. -/
def Obligations.BlockWindow : Prop :=
  (∀ a : Addr, (windowReg a).isSome = true ↔
    a.getLsbD 22 = false ∧
    (a.toNat % 2 ^ 16 ∈ [0x2137, 0x213C, 0x213D, 0x213F, 0x4200, 0x4201, 0x4210, 0x4211, 0x4212] ∨
      (0x4207 ≤ a.toNat % 2 ^ 16 ∧ a.toNat % 2 ^ 16 ≤ 0x420D) ∨
      (0x4218 ≤ a.toNat % 2 ^ 16 ∧ a.toNat % 2 ^ 16 ≤ 0x421F) ∨
      (0x4300 ≤ a.toNat % 2 ^ 16 ∧ a.toNat % 2 ^ 16 ≤ 0x43FF))) ∧
  (∀ a b : Addr, a.getLsbD 22 = false → b.getLsbD 22 = false → a.toNat % 2 ^ 16 = b.toNat % 2 ^ 16 →
    windowReg a = windowReg b)

/-! ## Reset -/

/-- R66, R460, R461, R391: what RESET leaves, in every state, also the fault state and while paused: every value of
the reset table (R66); the host's `paused` and `joyInput`, the parameters and the router's table stay; only EV_VIDEO is
queued, with stamp 0, and the counter of stamps is 0 (R33, R66; log 7). The model's choice, and no rule of the spec:
the router's memory and state, the waiting words and the record of outputs stay (log 30), and the CPU's first requests
are its reset sequence (log 11). -/
def Obligations.ResetValues : Prop :=
  (∀ s : State, s.cfg.Valid → ∃ t, exec .reset s = .next t ∧
      t.committed = 0 ∧ t.ahead = 0 ∧ t.seqCounter = 0 ∧ t.cpuState = .running ∧ t.gdmaActive = false ∧ t.stallActive = false ∧
      t.stallUntil = 0 ∧ t.memsel = false ∧ t.fault = none ∧
      (∀ c, (channel t c).written = 0 ∧ (channel t c).hdmaDoTransfer = false ∧ (channel t c).hdmaTerminated = true) ∧
      t.mdmaen = 0 ∧ t.hdmaen = 0 ∧ t.gdmaPhase = .idle ∧ t.gdmaIndex = 0 ∧ t.dot = 0 ∧ t.scanline = 0 ∧
      t.hblank = false ∧ t.vblank = false ∧ t.field = false ∧ t.nmitimen = 0 ∧ t.htime = 0x1FF ∧ t.vtime = 0x1FF ∧
      t.nmiFlag = false ∧ t.nmiPrev = false ∧ t.nmiRequest = false ∧ t.irqFlag = false ∧ t.autoJoyBusy = false ∧
      (∀ n : Fin 4, t.joy[n] = 0) ∧ t.wrio = 0xFF ∧ t.latchH = 0 ∧ t.latchV = 0 ∧ t.latchFlag = false ∧
      t.ophctFF = false ∧ t.opvctFF = false ∧ t.frameCounter = 0 ∧ t.frameDone = false ∧
      t.paused = s.paused ∧ t.joyInput = s.joyInput ∧ t.cfg = s.cfg ∧ t.regions = s.regions) ∧
  (∀ s : State, s.cfg.Valid → ∃ t, exec .reset s = .next t ∧
      (∀ e, (event t e).queued = true ↔ e = .video) ∧
      (event t .video).seq = 0 ∧ (event t .video).when = s.cfg.dotCycles ∧
      t.mem = s.mem ∧ t.routerState = s.routerState ∧ t.inbox = s.inbox ∧ t.outputs = s.outputs ∧
      t.port = [] ∧ t.cpuScript = [] ∧ t.cpuEngine = .vectorLow)

/-- R6: RESET refuses a parameter record that breaks a constraint; and, the model's choice (log 2), one whose widths
are not those of the words; and no other. -/
def Obligations.BadConfigIsRefused : Prop :=
  ∀ s : State,
    let p := s.cfg
    let ok := (0 < p.hblankClearDot ∧ p.hblankClearDot < p.dots ∧ p.hdmaInitDot < p.dots ∧ p.oamReloadDot < p.dots ∧
        p.joyDot < p.dots ∧ p.refreshDot < p.dots ∧ p.hblankDot < p.dots ∧ p.hdmaLineDot < p.dots) ∧
      p.hdmaInitDot < p.hdmaLineDot ∧ (0 < p.vblankLine ∧ p.vblankLine < p.lines) ∧
      (0 < p.irqLatency ∧ p.irqLatency < p.dots * p.dotCycles) ∧ 1 ≤ p.dmaAlign ∧
      (p.prioIrq < p.prioVideo ∧ p.prioVideo < p.prioDma ∧ p.prioDma < p.prioGeneric)
    let widths := p.nCh = 8 ∧ p.abusBits = 24 ∧ p.bbusBits = 8
    (¬ ok → exec .reset s = .refused .badConfig) ∧ (¬ widths → exec .reset s = .refused .badConfig) ∧
    (ok → widths → ∃ t, exec .reset s = .next t)

/-- R66, R67, R462: the state at power-on meets every invariant stated here. -/
def Obligations.ResetMeetsTheInvariants : Prop :=
  Sound State.reset ∧ Regular State.reset ∧ OnTime State.reset

/-! ## Scheduler -/

/-- R33, R160: the queue holds the queued events, each once, in ascending order of `(when, priority, seq)`, and
the horizon is the `when` of its first event. -/
def Obligations.QueueOrder : Prop :=
  ∀ s : State,
    (∀ e, e ∈ queue s ↔ (event s e).queued = true) ∧ (queue s).Nodup ∧
    (queue s).Pairwise (fun e f =>
      (event s e).when < (event s f).when ∨
      ((event s e).when = (event s f).when ∧
        (priority s.cfg e < priority s.cfg f ∨
          (priority s.cfg e = priority s.cfg f ∧ (event s e).seq ≤ (event s f).seq)))) ∧
    horizon s = (queue s).head?.map (fun e => (event s e).when)

/-- R162 to R165, R167: the queue commands, the whole next state; ANY_EVENT_DUE returns whether a queued event's
`when` has been reached by `now` (the returned bit is the field `reply`: log 22). -/
def Obligations.SchedulerCommands : Prop :=
  (∀ (s : State) (e : EventId), Live s →
      (∀ t : BitVec 48, exec (.scheduleAt e t) s = .next { s with
        events := setEvent s.events e { when := t.toNat, seq := s.seqCounter, queued := true }
        seqCounter := s.seqCounter + 1 }) ∧
      (∀ d : BitVec 48, exec (.schedule e d) s = .next { s with
        events := setEvent s.events e
          { when := s.committed + s.ahead + d.toNat, seq := s.seqCounter, queued := true }
        seqCounter := s.seqCounter + 1 }) ∧
      (∀ d : BitVec 48, exec (.reschedule e d) s = .next { s with
        events := setEvent s.events e
          { when := s.committed + s.ahead + d.toNat, seq := s.seqCounter, queued := true }
        seqCounter := s.seqCounter + 1 }) ∧
      exec (.deschedule e) s = .next { s with
        events := setEvent s.events e { getEvent s.events e with queued := false } }) ∧
  (∀ s : State, ∃ b, exec .anyEventDue s = .next { s with reply := .bit b } ∧
      (b = true ↔ ∃ e, (event s e).queued = true ∧ (event s e).when ≤ s.committed + s.ahead))

/-- R168: ADVANCE below `ahead` faults; with nothing reached it commits the cycles and returns the delay to the
next pending event (what a command returns is the field `reply`: log 22). -/
def Obligations.AdvanceCommits : Prop :=
  ∀ (s : State) (n : BitVec 48), Live s →
    (n.toNat < s.ahead → exec (.advance n) s = .next { s with
      fault := some { code := .invariant, info := .advanceBelowAhead n.toNat s.ahead,
                      instr := (presented s).instrAddr, event := s.current }
      reply := .delay none }) ∧
    (s.ahead ≤ n.toNat → NoneDueBy (s.committed + n.toNat) s → exec (.advance n) s = .next { s with
      committed := s.committed + n.toNat
      ahead := 0
      reply := .delay ((horizon s).map fun h => h - (s.committed + n.toNat)) })

/-- R168, R160: with EV_IRQ the first due event and nothing else reached, ADVANCE fires it: the queue loses it
and the flag rises. -/
def Obligations.AdvanceFiresTheDueEvent : Prop :=
  ∀ (s : State) (n : BitVec 48), Live s → s.ahead ≤ n.toNat → irqMode s ≠ 0 →
    (event s .irq).queued = true → (event s .irq).when ≤ s.committed + n.toNat →
    (∀ e, e ≠ .irq → (event s e).queued = true → s.committed + n.toNat < (event s e).when) →
    ∃ t, exec (.advance n) s = .next t ∧ t.fault = none ∧ t.irqFlag = true ∧ (event t .irq).queued = false ∧
      t.committed = s.committed + n.toNat ∧ t.ahead = 0 ∧ (∀ e, e ≠ .irq → event t e = event s e)

/-- R170: after ADVANCE nothing queued has been reached, and the delay it returns is the distance, at least 1, to
the next pending event. -/
def Obligations.AdvanceReturnsTheDelay : Prop :=
  ∀ (s t : State) (n : BitVec 48), Live s → exec (.advance n) s = .next t → Live t →
    t.committed = s.committed + n.toNat ∧ t.ahead = 0 ∧ NoneDueBy t.committed t ∧
    ((∃ e, (event t e).queued = true) → ∃ d, t.reply = .delay (some d) ∧ 1 ≤ d ∧
      (∃ e, (event t e).queued = true ∧ (event t e).when = t.committed + d) ∧
      ∀ e, (event t e).queued = true → t.committed + d ≤ (event t e).when)

/-! ## CPU port, wait states, run loop -/

/-- R181: the wait-state regions. -/
def Obligations.WaitStates : Prop :=
  ∀ (s : State) (a : Addr),
    let bank := a.toNat / 2 ^ 16
    let off := a.toNat % 2 ^ 16
    let system := bank < 0x40 ∨ (0x80 ≤ bank ∧ bank < 0xC0)
    (0x40 ≤ bank ∧ bank ≤ 0x7F → waitState s a = s.cfg.wsSlow) ∧
    (0xC0 ≤ bank → waitState s a = if s.memsel = true then s.cfg.wsFast else s.cfg.wsSlow) ∧
    (system → off ≤ 0x1FFF → waitState s a = s.cfg.wsSlow) ∧
    (system → 0x2000 ≤ off ∧ off ≤ 0x3FFF → waitState s a = s.cfg.wsFast) ∧
    (system → 0x4000 ≤ off ∧ off ≤ 0x41FF → waitState s a = s.cfg.wsXslow) ∧
    (system → 0x4200 ≤ off ∧ off ≤ 0x5FFF → waitState s a = s.cfg.wsFast) ∧
    (system → 0x6000 ≤ off ∧ off ≤ 0x7FFF → waitState s a = s.cfg.wsSlow) ∧
    (system → 0x8000 ≤ off → waitState s a = if 0x80 ≤ bank ∧ s.memsel = true then s.cfg.wsFast else s.cfg.wsSlow)

/-- R183, R184, R185, R188, R95, R110, R413, R416: the read kinds of the CPU port: on a register of the window, the
register's read; outside it, by what the router answers: plain memory at the address's place; a peripheral, by the
router's own function of its state, whatever it answers; an unmapped address, which reads the byte on the bus; an
enhancement chip, which faults and charges nothing. Each charges its wait state, and the byte goes to the CPU but for
DUMMY_READ (the router as data and as a function of its own state: log 8, log 9). -/
def Obligations.CpuReads : Prop :=
  (∀ (s : State) (a : Addr) (r : Reg), Live s → windowReg a = some r →
      let b := (blockRead r s).1
      let u := (blockRead r s).2
      exec (.fetch a) s = .next { u with openBus := b, ahead := s.ahead + waitState s a, cpuByte := b } ∧
      exec (.readOperand a) s = .next { u with openBus := b, ahead := s.ahead + waitState s a, cpuByte := b } ∧
      exec (.memoryLoad a) s = .next { u with openBus := b, ahead := s.ahead + waitState s a, cpuByte := b } ∧
      exec (.dummyRead a) s = .next { u with openBus := b, ahead := s.ahead + waitState s a }) ∧
  (∀ (s : State) (a : Addr), Live s → windowReg a = none →
      (regionKind s a = some .ram ∨ regionKind s a = some .rom →
        let b := readByte s.mem (location s a)
        let t := { s with openBus := b, ahead := s.ahead + waitState s a }
        exec (.fetch a) s = .next { t with cpuByte := b } ∧ exec (.readOperand a) s = .next { t with cpuByte := b } ∧
        exec (.memoryLoad a) s = .next { t with cpuByte := b } ∧ exec (.dummyRead a) s = .next t) ∧
      (regionKind s a = some .device →
        let u := { s with routerState := Config.routerAfterRead s.routerState a }
        let t (toCpu : Byte → Byte) : Host.Outcome State Fault Refusal :=
          match Config.routerRead s.routerState a with
          | .mapped b => .next { u with openBus := b, ahead := s.ahead + waitState s a, cpuByte := toCpu b }
          | .unmapped => .next { u with ahead := s.ahead + waitState s a, cpuByte := toCpu s.openBus }
          | .fatalChip => .next { u with fault := some { code := .enhancementChip, info := .address a,
                                                         instr := (presented s).instrAddr, event := s.current } }
        exec (.fetch a) s = t id ∧ exec (.readOperand a) s = t id ∧ exec (.memoryLoad a) s = t id ∧
        exec (.dummyRead a) s = t (fun _ => s.cpuByte)) ∧
      (regionKind s a = none ∨ regionKind s a = some .writeOnly →
        let t := { s with ahead := s.ahead + waitState s a }
        exec (.fetch a) s = .next { t with cpuByte := s.openBus } ∧
        exec (.readOperand a) s = .next { t with cpuByte := s.openBus } ∧
        exec (.memoryLoad a) s = .next { t with cpuByte := s.openBus } ∧ exec (.dummyRead a) s = .next t) ∧
      (regionKind s a = some .chip →
        let t := { s with fault := some { code := .enhancementChip, info := .address a,
                                          instr := (presented s).instrAddr, event := s.current } }
        exec (.fetch a) s = .next t ∧ exec (.readOperand a) s = .next t ∧ exec (.memoryLoad a) s = .next t ∧
        exec (.dummyRead a) s = .next t))

/-- R187, R95, R110, R413, R416: MEMORY_STORE: to plain memory the byte is stored at the address's place and nowhere
else; a register of the window takes it by its own rule; memory that cannot be written and unmapped addresses ignore
it; a peripheral is sent it, whatever it answers; an enhancement chip faults (the router as data and as a function of
its own state: log 8, log 9). -/
def Obligations.CpuStores : Prop :=
  (∀ (s : State) (a : Addr) (v : Byte), Live s → MemoryWf s.mem → windowReg a = none → regionKind s a = some .ram →
      ∃ t, exec (.memoryStore a v) s = .next t ∧ readByte t.mem (location s a) = v ∧
        (∀ x, x ≠ location s a → readByte t.mem x = readByte s.mem x) ∧ MemoryWf t.mem ∧
        t.openBus = v ∧ t.ahead = s.ahead + waitState s a ∧
        { t with mem := s.mem, openBus := s.openBus, ahead := s.ahead } = s) ∧
  (∀ (s : State) (a : Addr) (v : Byte), Live s →
      (∀ r, windowReg a = some r → exec (.memoryStore a v) s =
        .next { blockWrite a v r { s with openBus := v } with ahead := s.ahead + waitState s a }) ∧
      (windowReg a = none →
        (regionKind s a = none ∨ regionKind s a = some .rom →
          exec (.memoryStore a v) s = .next { s with openBus := v, ahead := s.ahead + waitState s a }) ∧
        (let u := { s with
          openBus := v, routerState := Config.routerAfterWrite s.routerState a v, outputs := .routerWrite a v :: s.outputs }
        (regionKind s a = some .writeOnly →
          exec (.memoryStore a v) s = .next { u with ahead := s.ahead + waitState s a }) ∧
        (regionKind s a = some .device → exec (.memoryStore a v) s =
          match Config.routerWrite s.routerState a v with
          | .fatalChip => .next { u with fault := some { code := .enhancementChip, info := .address a,
                                                         instr := (presented s).instrAddr, event := s.current } }
          | _ => .next { u with ahead := s.ahead + waitState s a })) ∧
        (regionKind s a = some .chip →
          exec (.memoryStore a v) s = .next { s with
            openBus := v
            fault := some { code := .enhancementChip, info := .address a, instr := (presented s).instrAddr,
                            event := s.current } })))

/-- R189 to R192: the requests that make no access. -/
def Obligations.IdleHaltStopAck : Prop :=
  ∀ s : State, Live s →
    exec .idle s = .next { s with ahead := s.ahead + s.cfg.idleCycles } ∧
    exec .halt s = .next { s with cpuState := .waiting } ∧
    exec .stop s = .next { s with cpuState := .stopped } ∧
    exec .nmiAck s = .next { s with nmiRequest := false }

/-- R197, R180: STEP performs the request the CPU presents when it is granted, exactly as its row, and the CPU goes
on to its next request: the words held at its port in their order, then its stream. R463: the reset sequence reads
the vector's low byte, then its high byte, and fetches from the address they make (the order and the CPU's inputs
there: log 11). -/
def Obligations.StepPerformsTheRequest : Prop :=
  (∀ (s t : State) (r : CpuRequest) (rest : List CpuRequest) (i : Instr),
    brokenInvariant s = none → granted s = true →
    decode ⟨.busop, r.word.setWidth 64⟩ = .ok i → exec i s = .next t → Live t →
    (s.port = r :: rest → exec .stepOnce s = .next { t with port := rest }) ∧
    (s.port = [] → s.cpuScript = r :: rest → exec .stepOnce s = .next { t with cpuScript := rest })) ∧
  (∀ s t : State, brokenInvariant s = none → granted s = true → s.port = [] → s.cpuScript = [] → Live t →
    (s.cpuEngine = .vectorLow → exec (.memoryLoad 0x00FFFC) s = .next t →
      exec .stepOnce s = .next { t with cpuEngine := .vectorHigh t.cpuByte }) ∧
    (∀ low : Byte, s.cpuEngine = .vectorHigh low → exec (.memoryLoad 0x00FFFD) s = .next t →
      ∃ code, exec .stepOnce s =
        .next { t with cpuEngine := .boundary code false true (0x00#8 ++ (t.cpuByte ++ low)) }) ∧
    (∀ code native mask pc, s.cpuEngine = .boundary code native mask pc → interruptTaken s = none →
      exec (.fetch pc) s = .next t →
      ∃ code', exec .stepOnce s = .next { t with cpuEngine := .running code' }))

/-- R197, R198, R172: STEP with nothing due and nothing granted: a waiting CPU wakes exactly on an NMI request or an
unmasked IRQ; a stopped or blocked one is charged in bulk to the earliest queued event, which it reaches exactly. With
an empty queue it faults, and a step that finds a clause of R67 broken faults (R415; when it looks: log 17). -/
def Obligations.StepWithoutAGrant : Prop :=
  (∀ s : State, Live s → brokenInvariant s = none → NoneDueBy (s.committed + s.ahead) s → s.cpuState = .waiting →
      (s.nmiRequest = true ∨ (s.irqFlag = true ∧ (presented s).irqDisable = false) ↔
        exec .stepOnce s = .next { s with cpuState := .running })) ∧
  (∀ s t : State, Live s → brokenInvariant s = none → NoneDueBy (s.committed + s.ahead) s →
      (s.cpuState = .stopped ∨ (s.cpuState = .running ∧ (s.gdmaActive = true ∨ s.stallActive = true))) →
      exec .stepOnce s = .next t → Live t →
      t.ahead = 0 ∧ s.committed + s.ahead < t.committed ∧
        (∃ e, (event s e).queued = true ∧ (event s e).when = t.committed) ∧
        (∀ e, (event s e).queued = true → t.committed ≤ (event s e).when) ∧ NoneDueBy t.committed t) ∧
  (∀ s : State, Live s →
      let fault (info : FaultInfo) : Host.Outcome State Fault Refusal := .next { s with
        fault := some { code := .invariant, info := info, instr := (presented s).instrAddr, event := s.current } }
      (brokenInvariant s = none → (∀ e, (event s e).queued = false) →
        (s.cpuState = .stopped ∨ (s.cpuState = .running ∧ (s.gdmaActive = true ∨ s.stallActive = true))) →
        exec .stepOnce s = fault .emptyQueue) ∧
      (∀ clause, brokenInvariant s = some clause → exec .stepOnce s = fault (.broken clause)))

/-- R191, R437: a stopped CPU stays stopped under every step but a RESET. -/
def Obligations.StoppedUntilReset : Prop :=
  ∀ s t : State, step s = .next t → s.cpuState = .stopped →
    (∀ p, s.inbox.head? = some p → decode p ≠ .ok .reset) → t.cpuState = .stopped

/-! ## Registers of the window -/

/-- R95, R123, R220: every MMIO row is its register's read, the byte left on the bus, or its register's write of
the byte on the bus, at any bank (log 14). -/
def Obligations.RowsAreRegisterAccesses : Prop :=
  ∀ (bank : Byte) (r : Reg) (s : State), Live s →
    exec (readRow bank r) s = .next { (blockRead r s).2 with openBus := (blockRead r s).1 } ∧
    exec (writeRow bank r) s = .next (blockWrite (bank ++ BitVec.ofNat 16 r.offset) s.openBus r s)

/-- R221 to R224, R365, R140, R141: SLHV latches the counters exactly while `wrio[7] = 1`; OPHCT and OPVCT alternate
between the low byte and bit 8 of their latch; STAT78 reads field, latch flag, 0 and the version and clears the latch
flag and both flip-flops. Every other bit is free. The model's choice: a latch takes the low nine bits of a position
beyond 511 (log 25), and a word presented alone acts at once and charges nothing (log 14). -/
def Obligations.CounterLatchReads : Prop :=
  (∀ (bank : Byte) (s : State), Live s → ∃ b : Byte,
      exec (.rSlhv bank) s = .next (if s.wrio.getLsbD 7 = true then
        { s with latchH := BitVec.ofNat 9 s.dot, latchV := BitVec.ofNat 9 s.scanline, latchFlag := true,
                 draws := s.draws + 1, openBus := b }
      else { s with draws := s.draws + 1, openBus := b })) ∧
  (∀ (bank : Byte) (s : State), Live s →
      (s.ophctFF = false → exec (.rOphct bank) s = .next { s with ophctFF := true, openBus := s.latchH.setWidth 8 }) ∧
      (s.ophctFF = true → ∃ b : Byte, b.getLsbD 0 = s.latchH.getLsbD 8 ∧
        exec (.rOphct bank) s = .next { s with ophctFF := false, draws := s.draws + 1, openBus := b }) ∧
      (s.opvctFF = false → exec (.rOpvct bank) s = .next { s with opvctFF := true, openBus := s.latchV.setWidth 8 }) ∧
      (s.opvctFF = true → ∃ b : Byte, b.getLsbD 0 = s.latchV.getLsbD 8 ∧
        exec (.rOpvct bank) s = .next { s with opvctFF := false, draws := s.draws + 1, openBus := b })) ∧
  (∀ (bank : Byte) (s : State), Live s → ∃ b : Byte,
      b.getLsbD 7 = s.field ∧ b.getLsbD 6 = s.latchFlag ∧ b.getLsbD 4 = false ∧ b.extractLsb' 0 4 = s.cfg.ppu2Version ∧
      exec (.rStat78 bank) s = .next { s with
        latchFlag := false, ophctFF := false, opvctFF := false, draws := s.draws + 1, openBus := b })

/-- R225, R235, R240, R253, R254: a read of a write-only port or of an unmapped offset of the window returns the byte
on the bus, a write to a read-only register or an unmapped offset is ignored: nothing changes. The model's choice
(log 14): a word presented alone charges nothing. -/
def Obligations.AccessesWithoutEffect : Prop :=
  (∀ (bank : Byte) (c : Chan) (low : BitVec 7) (s : State), Live s →
      exec (.rNmitimen bank) s = .next s ∧ exec (.rWrio bank) s = .next s ∧ exec (.rHtimel bank) s = .next s ∧
      exec (.rHtimeh bank) s = .next s ∧ exec (.rVtimel bank) s = .next s ∧ exec (.rVtimeh bank) s = .next s ∧
      exec (.rMdmaen bank) s = .next s ∧ exec (.rHdmaen bank) s = .next s ∧ exec (.rMemsel bank) s = .next s ∧
      exec (.rGapC bank c) s = .next s ∧ exec (.rGapD bank c) s = .next s ∧ exec (.rGapE bank c) s = .next s ∧
      exec (.rTail bank low) s = .next s) ∧
  (∀ (bank : Byte) (c : Chan) (low : BitVec 7) (s : State), Live s →
      exec (.wSlhv bank) s = .next s ∧ exec (.wOphct bank) s = .next s ∧ exec (.wOpvct bank) s = .next s ∧
      exec (.wStat78 bank) s = .next s ∧ exec (.wRdnmi bank) s = .next s ∧ exec (.wTimeup bank) s = .next s ∧
      exec (.wHvbjoy bank) s = .next s ∧ exec (.wJoy1l bank) s = .next s ∧ exec (.wJoy1h bank) s = .next s ∧
      exec (.wJoy2l bank) s = .next s ∧ exec (.wJoy2h bank) s = .next s ∧ exec (.wJoy3l bank) s = .next s ∧
      exec (.wJoy3h bank) s = .next s ∧ exec (.wJoy4l bank) s = .next s ∧ exec (.wJoy4h bank) s = .next s ∧
      exec (.wGapC bank c) s = .next s ∧ exec (.wGapD bank c) s = .next s ∧ exec (.wGapE bank c) s = .next s ∧
      exec (.wTail bank low) s = .next s)

/-- R226, R417: NMITIMEN write: mode %00 clears the IRQ flag and deschedules EV_IRQ; the NMI edge is evaluated with
the new enable. The model's choice (log 14): a word presented alone acts at once, charges nothing and takes the byte on
the bus. -/
def Obligations.NmitimenWrite : Prop :=
  ∀ (bank : Byte) (s : State), Live s →
    let v := s.openBus
    let line := v.getLsbD 7 && s.nmiFlag
    let t := { s with nmitimen := v, nmiRequest := s.nmiRequest || (line && !s.nmiPrev), nmiPrev := line }
    exec (.wNmitimen bank) s = .next (if v.extractLsb' 4 2 = 0 then
      { t with irqFlag := false, events := { t.events with irq := { t.events.irq with queued := false } } } else t)

/-- R227 to R231, R233, R234: the writes of WRIO, whose fall of bit 7 latches the counters, of the H/V targets, each
half alone, of HDMAEN and of MEMSEL. The model's choice: a latch takes the low nine bits of a position beyond 511
(log 25), and a word presented alone acts at once, charges nothing and takes the byte on the bus (log 14). -/
def Obligations.ControlPortWrites : Prop :=
  (∀ (bank : Byte) (s : State), Live s →
      exec (.wWrio bank) s = .next (if s.wrio.getLsbD 7 = true ∧ s.openBus.getLsbD 7 = false then
        { s with wrio := s.openBus, latchH := BitVec.ofNat 9 s.dot, latchV := BitVec.ofNat 9 s.scanline, latchFlag := true }
      else { s with wrio := s.openBus })) ∧
  (∀ (bank : Byte) (s : State), Live s →
      (∃ h : BitVec 9, exec (.wHtimel bank) s = .next { s with htime := h } ∧
        h.extractLsb' 0 8 = s.openBus ∧ h.getLsbD 8 = s.htime.getLsbD 8) ∧
      (∃ h : BitVec 9, exec (.wHtimeh bank) s = .next { s with htime := h } ∧
        h.extractLsb' 0 8 = s.htime.extractLsb' 0 8 ∧ h.getLsbD 8 = s.openBus.getLsbD 0) ∧
      (∃ v : BitVec 9, exec (.wVtimel bank) s = .next { s with vtime := v } ∧
        v.extractLsb' 0 8 = s.openBus ∧ v.getLsbD 8 = s.vtime.getLsbD 8) ∧
      (∃ v : BitVec 9, exec (.wVtimeh bank) s = .next { s with vtime := v } ∧
        v.extractLsb' 0 8 = s.vtime.extractLsb' 0 8 ∧ v.getLsbD 8 = s.openBus.getLsbD 0)) ∧
  (∀ (bank : Byte) (s : State), Live s →
      exec (.wHdmaen bank) s = .next { s with hdmaen := s.openBus } ∧
      exec (.wMemsel bank) s = .next { s with memsel := s.openBus.getLsbD 0 })

/-- R291, R232: MDMAEN write: the enables are stored; a nonzero value while IDLE starts the sequencer at the least
multiple `m` of P_DMA_ALIGN that is not before the end of the store, plus P_DMA_INIT. The model's choice (log 14): a word presented
alone acts at once, charges nothing and takes the byte on the bus, and the store it stands for starts at the current time
and costs the wait state of the word's own address. -/
def Obligations.MdmaenWrite : Prop :=
  ∀ (bank : Byte) (s : State), Live s → 1 ≤ s.cfg.dmaAlign →
    (s.openBus = 0 ∨ s.gdmaPhase ≠ .idle → exec (.wMdmaen bank) s = .next { s with mdmaen := s.openBus }) ∧
    (s.openBus ≠ 0 → s.gdmaPhase = .idle →
      ∃ m : Nat, s.cfg.dmaAlign ∣ m ∧ s.committed + s.ahead + waitState s (bank ++ 0x420B#16) ≤ m ∧
        m < s.committed + s.ahead + waitState s (bank ++ 0x420B#16) + s.cfg.dmaAlign ∧
        exec (.wMdmaen bank) s = .next { s with
          mdmaen := s.openBus, gdmaActive := true, gdmaPhase := .select
          events := { s.events with dma := { when := m + s.cfg.dmaInit, seq := s.seqCounter, queued := true } }
          seqCounter := s.seqCounter + 1 })

/-- R236 to R238, R135 to R137: RDNMI: the NMI flag over open bus and the version; it clears the flag and the edge
detector's memory, and leaves `nmiRequest`. TIMEUP: the IRQ flag over open bus; it clears the flag and leaves EV_IRQ.
HVBJOY: the blank flags, open bus and the joypad flag; it changes nothing but the bus. The model's choice (log 14): a
word presented alone acts at once and charges nothing. -/
def Obligations.StatusReads : Prop :=
  (∀ (bank : Byte) (s : State), Live s → ∃ b : Byte,
      b.getLsbD 7 = s.nmiFlag ∧ b.extractLsb' 4 3 = s.openBus.extractLsb' 4 3 ∧ b.extractLsb' 0 4 = s.cfg.cpuVersion ∧
      exec (.rRdnmi bank) s = .next { s with nmiFlag := false, nmiPrev := false, openBus := b }) ∧
  (∀ (bank : Byte) (s : State), Live s →
      (∃ b : Byte, b.getLsbD 7 = s.irqFlag ∧ b.extractLsb' 0 7 = s.openBus.extractLsb' 0 7 ∧
        exec (.rTimeup bank) s = .next { s with irqFlag := false, openBus := b }) ∧
      (∃ b : Byte, b.getLsbD 7 = s.vblank ∧ b.getLsbD 6 = s.hblank ∧ b.extractLsb' 1 5 = s.openBus.extractLsb' 1 5 ∧
        b.getLsbD 0 = s.autoJoyBusy ∧ exec (.rHvbjoy bank) s = .next { s with openBus := b }))

/-- R239, R138: JOY reads: the latched result's byte, or a free byte while the auto-joypad is busy. The model's
choice (log 14): a word presented alone acts at once and charges nothing. -/
def Obligations.JoyReads : Prop :=
  ∀ (bank : Byte) (s : State), Live s →
    (s.autoJoyBusy = false →
      exec (.rJoy1l bank) s = .next { s with openBus := s.joy[0].setWidth 8 } ∧
      exec (.rJoy1h bank) s = .next { s with openBus := (s.joy[0] >>> 8).setWidth 8 } ∧
      exec (.rJoy2l bank) s = .next { s with openBus := s.joy[1].setWidth 8 } ∧
      exec (.rJoy2h bank) s = .next { s with openBus := (s.joy[1] >>> 8).setWidth 8 } ∧
      exec (.rJoy3l bank) s = .next { s with openBus := s.joy[2].setWidth 8 } ∧
      exec (.rJoy3h bank) s = .next { s with openBus := (s.joy[2] >>> 8).setWidth 8 } ∧
      exec (.rJoy4l bank) s = .next { s with openBus := s.joy[3].setWidth 8 } ∧
      exec (.rJoy4h bank) s = .next { s with openBus := (s.joy[3] >>> 8).setWidth 8 }) ∧
    (s.autoJoyBusy = true → ∃ b : Byte, let t := { s with draws := s.draws + 1, openBus := b }
      exec (.rJoy1l bank) s = .next t ∧ exec (.rJoy1h bank) s = .next t ∧ exec (.rJoy2l bank) s = .next t ∧
      exec (.rJoy2h bank) s = .next t ∧ exec (.rJoy3l bank) s = .next t ∧ exec (.rJoy3h bank) s = .next t ∧
      exec (.rJoy4l bank) s = .next t ∧ exec (.rJoy4h bank) s = .next t)

/-- R241 to R252, R47: a channel register read returns the stored byte of a register written since reset, a free byte
of one not written; nothing but the bus changes. The model's choice (log 14): a word presented alone acts at once and
charges nothing. -/
def Obligations.ChannelReads : Prop :=
  (∀ (bank : Byte) (c : Chan) (s : State), Live s →
      let ch := channel s c
      (ch.written.getLsbD 0 = true → exec (.rDmap bank c) s = .next { s with openBus := ch.dmap }) ∧
      (ch.written.getLsbD 1 = true → exec (.rBbad bank c) s = .next { s with openBus := ch.bbad }) ∧
      (ch.written.getLsbD 2 = true → exec (.rA1tl bank c) s = .next { s with openBus := ch.a1t.setWidth 8 }) ∧
      (ch.written.getLsbD 3 = true → exec (.rA1th bank c) s = .next { s with openBus := (ch.a1t >>> 8).setWidth 8 }) ∧
      (ch.written.getLsbD 4 = true → exec (.rA1b bank c) s = .next { s with openBus := ch.a1b }) ∧
      (ch.written.getLsbD 5 = true → exec (.rDasl bank c) s = .next { s with openBus := ch.das.setWidth 8 }) ∧
      (ch.written.getLsbD 6 = true → exec (.rDash bank c) s = .next { s with openBus := (ch.das >>> 8).setWidth 8 }) ∧
      (ch.written.getLsbD 7 = true → exec (.rDasb bank c) s = .next { s with openBus := ch.dasb }) ∧
      (ch.written.getLsbD 8 = true → exec (.rA2al bank c) s = .next { s with openBus := ch.a2a.setWidth 8 }) ∧
      (ch.written.getLsbD 9 = true → exec (.rA2ah bank c) s = .next { s with openBus := (ch.a2a >>> 8).setWidth 8 }) ∧
      (ch.written.getLsbD 10 = true → exec (.rNtrl bank c) s = .next { s with openBus := ch.ntrl }) ∧
      (ch.written.getLsbD 11 = true → exec (.rUnused bank c) s = .next { s with openBus := ch.unused } ∧
        exec (.rUnusedMirror bank c) s = .next { s with openBus := ch.unused })) ∧
  (∀ (bank : Byte) (c : Chan) (r : ChanReg) (k : Nat) (s : State), Live s → writtenIndex r = some k →
      (channel s c).written.getLsbD k = false →
      ∃ b : Byte, exec (readRow bank (.chan c r)) s = .next { s with draws := s.draws + 1, openBus := b })

/-- R241 to R252, R97: a channel register write stores its byte, marks it written, and changes nothing else of the
channel, of another channel, or of the machine. The model's choice (log 14): a word presented alone acts at once,
charges nothing and takes the byte on the bus. -/
def Obligations.ChannelWrites : Prop :=
  ∀ (bank : Byte) (c : Chan) (s : State), Live s →
    let ch := channel s c
    let v := s.openBus
    let put (k : Nat) (ch' : Channel) : State :=
      { s with channels := s.channels.set c.val { ch' with written := ch.written ||| (1#12 <<< k) } c.isLt }
    exec (.wDmap bank c) s = .next (put 0 { ch with dmap := v }) ∧
    exec (.wBbad bank c) s = .next (put 1 { ch with bbad := v }) ∧
    exec (.wA1tl bank c) s = .next (put 2 { ch with a1t := ch.a1t.extractLsb' 8 8 ++ v }) ∧
    exec (.wA1th bank c) s = .next (put 3 { ch with a1t := v ++ ch.a1t.extractLsb' 0 8 }) ∧
    exec (.wA1b bank c) s = .next (put 4 { ch with a1b := v }) ∧
    exec (.wDasl bank c) s = .next (put 5 { ch with das := ch.das.extractLsb' 8 8 ++ v }) ∧
    exec (.wDash bank c) s = .next (put 6 { ch with das := v ++ ch.das.extractLsb' 0 8 }) ∧
    exec (.wDasb bank c) s = .next (put 7 { ch with dasb := v }) ∧
    exec (.wA2al bank c) s = .next (put 8 { ch with a2a := ch.a2a.extractLsb' 8 8 ++ v }) ∧
    exec (.wA2ah bank c) s = .next (put 9 { ch with a2a := v ++ ch.a2a.extractLsb' 0 8 }) ∧
    exec (.wNtrl bank c) s = .next (put 10 { ch with ntrl := v }) ∧
    exec (.wUnused bank c) s = .next (put 11 { ch with unused := v }) ∧
    exec (.wUnusedMirror bank c) s = .next (put 11 { ch with unused := v })

/-- R109: a CPU read of a readable and writable register of the window right after a CPU write of `v` returns `v`,
at whichever bank and offset either reaches it: UNUSED has two offsets (R252). -/
def Obligations.ReadAfterWrite : Prop :=
  ∀ (s t : State) (a b : Addr) (c : Chan) (r q : ChanReg) (v : Byte), Live s → (writtenIndex r).isSome = true →
    writtenIndex q = writtenIndex r →
    windowReg a = some (.chan c r) → windowReg b = some (.chan c q) → exec (.memoryStore a v) s = .next t →
    exec (.memoryLoad b) t = .next { t with ahead := t.ahead + waitState t b, cpuByte := v }

/-! ## Interrupts -/

/-- R417, R423, R426, R60, R183: a rise of `nmiEnable and nmiFlag` sets `nmiRequest`, and nothing else does; the CPU takes an
interrupt only where it would issue the FETCH of a new instruction, so where the request is granted, an NMI before an
IRQ, an IRQ only when it is not disabled. R424, R425, R430, R438: with no request given, STEP then performs the
service in place of the FETCH: for an NMI one NMI_ACK first; the pushes of the bank (native mode), the PC and the
status; the loads of the vector, low byte first; then the handler's first FETCH, at which `cpuI` is 1, so that no IRQ
is taken there; after its HALT the CPU is at a boundary. The model's choice (log 28, log 32): that only the CPU's own
engine samples; the order of the pushes, their addresses and the status byte, which are free; the PC pushed, which is
the address of the FETCH; that nothing else comes in between. -/
def Obligations.InterruptLines : Prop :=
  (∀ s : State,
      let line := s.nmitimen.getLsbD 7 = true ∧ s.nmiFlag = true
      ((nmiEdgeEval s).nmiRequest = true ↔ s.nmiRequest = true ∨ (line ∧ s.nmiPrev = false)) ∧
      ((nmiEdgeEval s).nmiPrev = true ↔ line) ∧
      { nmiEdgeEval s with nmiRequest := s.nmiRequest, nmiPrev := s.nmiPrev } = s) ∧
  (∀ s : State,
      let boundary := granted s = true ∧ (presented s).word.extractLsb' 32 4 = 0
      (interruptTaken s = some .nmi ↔ boundary ∧ s.nmiRequest = true) ∧
      (interruptTaken s = some .irq ↔
        boundary ∧ s.nmiRequest = false ∧ s.irqFlag = true ∧ (presented s).irqDisable = false)) ∧
  (∀ (s : State) (k : Interrupt), brokenInvariant s = none → s.port = [] → s.cpuScript = [] →
      interruptTaken s = some k →
      let u := { s with cpuEngine := engineService k s.cpuEngine }
      exec .stepOnce s =
        match decodeBusop ((presented u).word.setWidth 64) with
        | .error _ => .refused .badCommand
        | .ok i =>
          match exec i u with
          | .next t => .next (if t.fault = none then cpuAdvance t else t)
          | stop => stop) ∧
  (∀ (s : State) (code : Nat) (k : Interrupt), s.port = [] → s.cpuScript = [] → s.cpuEngine = .running code →
      engineService k s.cpuEngine = engineService k
        (.boundary code (Config.cpuNative code) (presented s).irqDisable ((presented s).word.extractLsb' 8 24))) ∧
  (∀ (s : State) (v : Service), brokenInvariant s = none → s.port = [] → s.cpuScript = [] →
      interruptTaken s = some v.kind → s.cpuEngine = .boundary v.code v.nativeMode v.mask v.pc →
      let status : Byte := Config.cpuStatus v.code
      let pc : List Byte := [v.pc.extractLsb' 8 8, v.pc.extractLsb' 0 8]
      ∃ value rest, (if v.nativeMode = true then [v.pc.extractLsb' 16 8] else []) ++ pc ++ [status] = value :: rest ∧
        (v.kind = .nmi → exec .stepOnce s = .next { s with nmiRequest := false, cpuEngine := .push v value rest }) ∧
        (v.kind = .irq → ∀ t, exec (.memoryStore (Config.cpuPushAddr v.code rest.length) value) s = .next t → Live t →
          ∃ value' rest', rest = value' :: rest' ∧ exec .stepOnce s = .next { t with cpuEngine := .push v value' rest' })) ∧
  (∀ (s t : State) (v : Service), brokenInvariant s = none → granted s = true → s.port = [] → s.cpuScript = [] → Live t →
      let vector : Half := match v.nativeMode, v.kind with
        | true, .nmi => 0xFFEA
        | true, .irq => 0xFFEE
        | false, .nmi => 0xFFFA
        | false, .irq => 0xFFFE
      (∀ value rest, s.cpuEngine = .push v value rest →
        exec (.memoryStore (Config.cpuPushAddr v.code rest.length) value) s = .next t →
        exec .stepOnce s = .next { t with cpuEngine := match rest with
          | [] => .serviceLow v
          | value' :: rest' => .push v value' rest' }) ∧
      (s.cpuEngine = .serviceLow v → exec (.memoryLoad (0x00#8 ++ vector)) s = .next t →
        exec .stepOnce s = .next { t with cpuEngine := .serviceHigh v t.cpuByte }) ∧
      (∀ low, s.cpuEngine = .serviceHigh v low → exec (.memoryLoad (0x00#8 ++ (vector + 1))) s = .next t →
        ∃ code, exec .stepOnce s =
          .next { t with cpuEngine := .boundary code v.nativeMode true (0x00#8 ++ (t.cpuByte ++ low)) })) ∧
  (∀ s : State, s.port = [] → s.cpuScript = [] →
      (∀ code native pc, s.cpuEngine = .boundary code native true pc → interruptTaken s ≠ some .irq) ∧
      (∀ code, s.cpuEngine = .running code → ∃ code' native pc, cpuAdvance s = { s with
        cpuEngine := if (presented s).word.extractLsb' 32 4 = 6 then .boundary code' native (presented s).irqDisable pc
          else .running code' }))

/-- R418: `nmiRequest` is cleared only by NMI_ACK and by reset: no other instruction clears it, the three that run
the CPU's own requests apart. -/
def Obligations.NmiRequestStays : Prop :=
  ∀ (i : Instr) (s t : State), i ≠ .nmiAck → i ≠ .reset → i ≠ .stepOnce → i ≠ .runFrame → i ≠ .runInstruction →
    exec i s = .next t → s.nmiRequest = true → t.nmiRequest = true

/-- R421, R196, R358: the callbacks of EV_IRQ, EV_STALL and EV_JOY: the event leaves the queue and its flag is
written; nothing else changes. The model's choice: an EVENT word does so also for an event that is not queued or not
yet due (log 16). -/
def Obligations.FlagEvents : Prop :=
  ∀ s : State, Live s → s.ahead = 0 →
    exec .evIrq s = .next { s with
      events := { s.events with irq := { s.events.irq with queued := false } }, current := none
      irqFlag := if s.nmitimen.extractLsb' 4 2 = 0 then s.irqFlag else true } ∧
    exec .evStall s = .next { s with
      events := { s.events with stall := { s.events.stall with queued := false } }, current := none
      stallActive := false } ∧
    exec .evJoy s = .next { s with
      events := { s.events with joy := { s.events.joy with queued := false } }, current := none
      autoJoyBusy := false }

/-- R419, R364, R420: after a tick EV_IRQ has been scheduled P_IRQ_LATENCY after the tick's own time exactly when
the comparator matches at the new position; else it is as it was. -/
def Obligations.IrqComparator : Prop :=
  ∀ s t : State, CanFire .video s → exec .evVideo s = .next t → Live t →
    let m := s.nmitimen.extractLsb' 4 2
    let hit := (m = 1 ∧ t.dot = s.htime.toNat) ∨ (m = 2 ∧ t.scanline = s.vtime.toNat ∧ t.dot = 0) ∨
      (m = 3 ∧ t.scanline = s.vtime.toNat ∧ t.dot = s.htime.toNat)
    (hit → (event t .irq).queued = true ∧ (event t .irq).when = (event s .video).when + s.cfg.irqLatency) ∧
    (¬ hit → event t .irq = event s .irq)

/-! ## Video timing -/

/-- R352, R367: a tick moves the position by one dot, wraps the scanline and the frame, and requeues EV_VIDEO one
dot after its own time, however late it fires. -/
def Obligations.VideoPosition : Prop :=
  ∀ s t : State, CanFire .video s → exec .evVideo s = .next t → Live t →
    (s.dot + 1 ≠ s.cfg.dots → t.dot = s.dot + 1 ∧ t.scanline = s.scanline ∧ t.field = s.field) ∧
    (s.dot + 1 = s.cfg.dots → s.scanline + 1 ≠ s.cfg.lines →
      t.dot = 0 ∧ t.scanline = s.scanline + 1 ∧ t.field = s.field) ∧
    (s.dot + 1 = s.cfg.dots → s.scanline + 1 = s.cfg.lines → t.dot = 0 ∧ t.scanline = 0 ∧ t.field = !s.field) ∧
    (event t .video).queued = true ∧ (event t .video).when = (event s .video).when + s.cfg.dotCycles

/-- R362, R363, R354: the blank flags, the NMI state and the frame bookkeeping after a tick, at every position. -/
def Obligations.VideoFlags : Prop :=
  ∀ s t : State, s.cfg.Valid → CanFire .video s → exec .evVideo s = .next t → Live t →
    let enable := s.nmitimen.getLsbD 7
    (t.dot = 0 → t.scanline = s.cfg.vblankLine →
      t.vblank = true ∧ t.nmiFlag = true ∧ t.nmiRequest = (s.nmiRequest || (enable && !s.nmiPrev)) ∧
      t.nmiPrev = enable ∧ t.frameCounter = s.frameCounter + 1 ∧ t.frameDone = true) ∧
    (t.dot = 0 → t.scanline = 0 →
      t.vblank = false ∧ t.nmiFlag = false ∧ t.nmiRequest = s.nmiRequest ∧ t.nmiPrev = false ∧
      t.frameCounter = s.frameCounter ∧ t.frameDone = s.frameDone) ∧
    (¬ (t.dot = 0 ∧ (t.scanline = 0 ∨ t.scanline = s.cfg.vblankLine)) →
      t.vblank = s.vblank ∧ t.nmiFlag = s.nmiFlag ∧ t.nmiRequest = s.nmiRequest ∧ t.nmiPrev = s.nmiPrev ∧
      t.frameCounter = s.frameCounter ∧ t.frameDone = s.frameDone) ∧
    (t.dot = s.cfg.hblankDot → t.hblank = true) ∧
    (t.dot = s.cfg.hblankClearDot → t.dot ≠ s.cfg.hblankDot → t.hblank = false) ∧
    (t.dot ≠ s.cfg.hblankDot → t.dot ≠ s.cfg.hblankClearDot → t.hblank = s.hblank)

/-- R357: the auto-joypad start: at its dot, if enabled, the host's keys are latched, the busy flag rises and EV_JOY
is scheduled; at every other tick nothing of it changes. -/
def Obligations.AutoJoypadStart : Prop :=
  ∀ s t : State, CanFire .video s → exec .evVideo s = .next t → Live t →
    let starts := t.scanline = s.cfg.vblankLine ∧ t.dot = s.cfg.joyDot ∧ s.nmitimen.getLsbD 0 = true
    (starts → t.autoJoyBusy = true ∧ t.joy[0] = s.joyInput[0] ∧ t.joy[1] = s.joyInput[1] ∧ t.joy[2] = 0 ∧
      t.joy[3] = 0 ∧ (event t .joy).queued = true ∧
      (event t .joy).when = (event s .video).when + s.cfg.joyBusyCycles) ∧
    (¬ starts → t.autoJoyBusy = s.autoJoyBusy ∧ t.joy = s.joy ∧ event t .joy = event s .joy)

/-- R351, R353, R356, R359, R360, R195: ticks at which at most one action falls, none of it DMA's, with no wrap and
no comparator match: the whole next state. -/
def Obligations.TicksComplete : Prop :=
  ∀ s : State, CanFire .video s → irqMode s = 0 → s.dot + 1 ≠ s.cfg.dots → s.dot + 1 ≠ 0 →
    let moved := { s with
      events := { s.events with video := { s.events.video with queued := false } }, dot := s.dot + 1, current := none }
    let next (u : State) : Host.Outcome State Fault Refusal :=
      .next (scheduleAt .video ((event s .video).when + s.cfg.dotCycles) u)
    (OnlyDot s.cfg (s.dot + 1) 7 → exec .evVideo s = next moved) ∧
    (OnlyDot s.cfg (s.dot + 1) 0 → exec .evVideo s = next { moved with hblank := false }) ∧
    (OnlyDot s.cfg (s.dot + 1) 2 → s.scanline = s.cfg.vblankLine →
      exec .evVideo s = next { moved with outputs := .oamReload :: s.outputs }) ∧
    (OnlyDot s.cfg (s.dot + 1) 4 → exec .evVideo s = next (stallBegin s.cfg.refreshCycles moved)) ∧
    (OnlyDot s.cfg (s.dot + 1) 5 → s.scanline < s.cfg.vblankLine →
      exec .evVideo s = next { moved with hblank := true, outputs := .composeScanline s.scanline :: s.outputs }) ∧
    (OnlyDot s.cfg (s.dot + 1) 5 → s.cfg.vblankLine ≤ s.scanline →
      exec .evVideo s = next { moved with hblank := true })

/-- R195: a stall starts at `committed`, or at the end of a running one; EV_STALL is queued at its end, and a queued
EV_DMA is pushed back by its length; nothing else changes. -/
def Obligations.StallBegins : Prop :=
  ∀ (s : State) (len : Nat),
    stallBegin 0 s = s ∧
    (len ≠ 0 →
      let t := stallBegin len s
      let start := if s.stallActive = true then max s.stallUntil s.committed else s.committed
      t.stallActive = true ∧ t.stallUntil = start + len ∧
      (event t .stall).queued = true ∧ (event t .stall).when = start + len ∧
      ((event s .dma).queued = true →
        (event t .dma).queued = true ∧ (event t .dma).when = (event s .dma).when + len) ∧
      ((event s .dma).queued = false → event t .dma = event s .dma) ∧
      (∀ e, e ≠ .stall → e ≠ .dma → event t e = event s e) ∧
      { t with
        events := s.events, seqCounter := s.seqCounter, stallUntil := s.stallUntil, stallActive := s.stallActive } = s)

/-! ## GDMA -/

/-- R295, R292, R301, R303, R306: a GDMA step in SELECT: the end of the sequence, or the highest enabled channel with
its checks in their order. -/
def Obligations.GdmaSelection : Prop :=
  ∀ s : State, CanFire .dma s → s.gdmaPhase = .select →
    let fired := { s with
      events := { s.events with dma := { s.events.dma with queued := false } }, current := none }
    (s.mdmaen = 0 → exec .evDma s = .next { fired with gdmaPhase := .idle, gdmaActive := false }) ∧
    ∀ c : Chan, s.mdmaen.getLsbD c.val = true → (∀ d : Chan, c < d → s.mdmaen.getLsbD d.val = false) →
      let ch := channel s c
      let live := s.hdmaen.getLsbD c.val = true ∧ ch.hdmaTerminated = false
      let p := (ch.dmap.extractLsb' 0 3).toNat
      (live → exec .evDma s = .refused (.gdmaHdmaSameChannel c)) ∧
      (¬ live → ∀ r ≤ 6, ch.written.getLsbD r = false → (∀ q < r, ch.written.getLsbD q = true) →
        exec .evDma s = .refused (.unwritten c r)) ∧
      (¬ live → (∀ r ≤ 6, ch.written.getLsbD r = true) →
        (p = 4 ∨ p = 5 → exec .evDma s = .next { fired with
          fault := some { code := .dmaPattern, info := .pattern c p, instr := (presented s).instrAddr,
                          event := some .dma } }) ∧
        (p ≠ 4 → p ≠ 5 → exec .evDma s = .next { fired with
          events := { fired.events with
            dma := { when := (event s .dma).when + s.cfg.dmaChannel, seq := s.seqCounter, queued := true } }
          seqCounter := s.seqCounter + 1, gdmaChannel := c, gdmaIndex := 0, gdmaPhase := .transfer }))

/-- R296 to R300, R129, R130: a GDMA step in TRANSFER between plain memory on both sides, of a pattern other than the
two unimplemented ones (4 and 5; log 26): the byte moves in the
channel's direction and nowhere else, the address steps within its bank, the counter falls, and a counter that
reaches 0 clears the channel's enable and goes to SELECT. -/
def Obligations.GdmaMovesAByte : Prop :=
  ∀ (s : State) (c : Chan), CanFire .dma s → s.gdmaPhase = .transfer → s.gdmaChannel = c →
    s.mdmaen.getLsbD c.val = true → MemoryWf s.mem →
    let ch := channel s c
    let p := (ch.dmap.extractLsb' 0 3).toNat
    let a : Addr := ch.a1b ++ ch.a1t
    let offset : Nat := ([[0], [0, 1], [0, 0], [0, 0, 1, 1], [], [], [0, 0], [0, 0, 1, 1]].getD p []).getD
      (s.gdmaIndex % ([1, 2, 2, 4, 4, 4, 2, 4].getD p 1)) 0
    let b : Addr := 0x0021#16 ++ (ch.bbad + BitVec.ofNat 8 offset)
    p ≠ 4 → p ≠ 5 →
    dmaRegWindow a = false → windowReg b = none → regionKind s a = some .ram → regionKind s b = some .ram →
    let src := location s (if ch.dmap.getLsbD 7 = true then b else a)
    let dst := location s (if ch.dmap.getLsbD 7 = true then a else b)
    let step : Half := match (ch.dmap.extractLsb' 3 2).toNat with | 0 => 1 | 2 => 0xFFFF | _ => 0
    ∃ t, exec .evDma s = .next t ∧
      readByte t.mem dst = readByte s.mem src ∧
      (∀ x, x ≠ dst → readByte t.mem x = readByte s.mem x) ∧
      t.openBus = readByte s.mem src ∧
      channel t c = { ch with a1t := ch.a1t + step, das := ch.das - 1 } ∧
      (∀ d, d ≠ c → channel t d = channel s d) ∧ t.gdmaIndex = s.gdmaIndex + 1 ∧
      (ch.das = 1 → t.gdmaPhase = .select ∧ t.mdmaen = s.mdmaen &&& ~~~(1#8 <<< c.val)) ∧
      (ch.das ≠ 1 → t.gdmaPhase = .transfer ∧ t.mdmaen = s.mdmaen) ∧
      (event t .dma).queued = true ∧ (event t .dma).when = (event s .dma).when + s.cfg.dmaByte ∧
      (∀ e, e ≠ .dma → event t e = event s e) ∧
      { t with
        events := s.events, seqCounter := s.seqCounter, current := s.current, mem := s.mem, openBus := s.openBus,
        channels := s.channels, gdmaIndex := s.gdmaIndex, gdmaPhase := s.gdmaPhase, mdmaen := s.mdmaen } = s

/-- R103, R302, R294, R415: a GDMA step in TRANSFER is refused at a register window, and moves nothing for a channel
whose enable is gone: with none enabled the sequence ends; a step while IDLE faults; the windows themselves. -/
def Obligations.GdmaStops : Prop :=
  (∀ s : State, CanFire .dma s →
      let ch := channel s s.gdmaChannel
      let fired := { s with
        events := { s.events with dma := { s.events.dma with queued := false } }, current := none }
      (s.gdmaPhase = .transfer → s.mdmaen.getLsbD s.gdmaChannel.val = true → dmaRegWindow (ch.a1b ++ ch.a1t) = true →
        exec .evDma s = .refused (.dmaRegWindow s.gdmaChannel (ch.a1b ++ ch.a1t))) ∧
      (s.gdmaPhase = .transfer → s.mdmaen = 0 →
        exec .evDma s = .next { fired with gdmaPhase := .idle, gdmaActive := false }) ∧
      (s.gdmaPhase = .idle → exec .evDma s = .next { fired with
        fault := some { code := .invariant, info := .dmaWhileIdle, instr := (presented s).instrAddr,
                        event := some .dma } })) ∧
  (∀ a : Addr, dmaRegWindow a = true ↔
      a.getLsbD 22 = false ∧
      ((0x2100 ≤ a.toNat % 2 ^ 16 ∧ a.toNat % 2 ^ 16 ≤ 0x21FF) ∨ (0x4000 ≤ a.toNat % 2 ^ 16 ∧ a.toNat % 2 ^ 16 ≤ 0x43FF)))

/-- R298, R144, R245: no event callback and no ADVANCE changes a channel's A1B, DASB, DMAP, BBAD or UNUSED. -/
def Obligations.TransfersKeepTheBank : Prop :=
  ∀ (i : Instr) (s t : State) (c : Chan),
    (i = .evIrq ∨ i = .evVideo ∨ i = .evDma ∨ i = .evStall ∨ i = .evJoy ∨ ∃ n, i = .advance n) →
    exec i s = .next t →
    (channel t c).a1b = (channel s c).a1b ∧ (channel t c).dasb = (channel s c).dasb ∧
    (channel t c).dmap = (channel s c).dmap ∧ (channel t c).bbad = (channel s c).bbad ∧
    (channel t c).unused = (channel s c).unused

/-! ## HDMA -/

/-- R323, R328, R142: the line counting of an entry with header `h`: after the `k`-th burst of its `n` lines the
count is `h - k`, the next line transfers exactly in a repeat entry, and the burst of the last line reloads. -/
def Obligations.HdmaLineCounting : Prop :=
  ∀ (h : Byte) (n k : Nat) (c : Chan) (s : State), h ≠ 0 →
    n = (if h.extractLsb' 0 7 = 0 then 128 else (h.extractLsb' 0 7).toNat) → 1 ≤ k → k ≤ n →
    (channel s c).ntrl = h - BitVec.ofNat 8 (k - 1) →
    let ch := { channel s c with
      ntrl := h - BitVec.ofNat 8 k, hdmaDoTransfer := (h - BitVec.ofNat 8 k).getLsbD 7 }
    (k < n → hdmaCount c s = .ok 0 (setChannel c ch s) ∧ ch.hdmaDoTransfer = decide (0x81 ≤ h.toNat)) ∧
    (k = n → hdmaCount c s = hdmaReload c (setChannel c ch s))

/-- R322, R329, R415: a header reload from a table in plain memory: a zero header ends the channel and reads no
pointer; a direct entry starts; an indirect entry also takes its pointer, low byte first. A reload that needs a
register byte not written since reset is refused. R321, R331, R330, R355: the per-frame reload: with one enabled
channel and a direct or a zero header, whole; with any, channel after channel in ascending order, each enabled one
taken from a GDMA, restarted at its table and reloaded, the others terminated, the stall the sum of the reloads; an
unwritten A1TL or A1TH is refused; the tick at its dot runs it. -/
def Obligations.HdmaReloads : Prop :=
  (∀ (s : State) (c : Chan),
      let ch := channel s c
      let at' (k : Half) : Addr := ch.a1b ++ (ch.a2a + k)
      let plain (k : Half) := dmaRegWindow (at' k) = false ∧ regionKind s (at' k) = some .ram
      let byte (k : Half) := readByte s.mem (location s (at' k))
      let mark : BitVec 12 := ch.written ||| (1#12 <<< 10)
      (∀ r ∈ [0, 4, 8, 9], ch.written.getLsbD r = true) → plain 0 →
      (byte 0 = 0 → hdmaReload c s = .ok s.cfg.hdmaHeader (setChannel c
        { ch with a2a := ch.a2a + 1, ntrl := 0, written := mark, hdmaTerminated := true, hdmaDoTransfer := false }
        { s with openBus := byte 0 })) ∧
      (byte 0 ≠ 0 → ch.dmap.getLsbD 6 = false → hdmaReload c s = .ok s.cfg.hdmaHeader (setChannel c
        { ch with a2a := ch.a2a + 1, ntrl := byte 0, written := mark, hdmaDoTransfer := true }
        { s with openBus := byte 0 })) ∧
      (byte 0 ≠ 0 → ch.dmap.getLsbD 6 = true → plain 1 → plain 2 →
        hdmaReload c s = .ok (s.cfg.hdmaHeader + s.cfg.hdmaPointer) (setChannel c
          { ch with a2a := ch.a2a + 3, ntrl := byte 0, das := byte 2 ++ byte 1,
                    written := mark ||| (1#12 <<< 5) ||| (1#12 <<< 6), hdmaDoTransfer := true }
          { s with openBus := byte 2 }))) ∧
  (∀ (s : State) (c : Chan) (r : Nat), r ∈ [0, 4, 8, 9] → (channel s c).written.getLsbD r = false →
      (∀ q ∈ [0, 4, 8, 9], q < r → (channel s c).written.getLsbD q = true) →
      hdmaReload c s = .refused (.unwritten c r)) ∧
  (∀ (s : State) (c : Chan), s.hdmaen = 1#8 <<< c.val →
      let ch := channel s c
      let a : Addr := ch.a1b ++ ch.a1t
      let h := readByte s.mem (location s a)
      (∀ r ∈ [0, 2, 3, 4], ch.written.getLsbD r = true) → dmaRegWindow a = false → regionKind s a = some .ram →
      (h = 0 ∨ ch.dmap.getLsbD 6 = false) →
      ∃ u, hdmaInit s = .ok () (stallBegin (s.cfg.hdmaOverhead + s.cfg.hdmaHeader) u) ∧
        channel u c = { ch with
          a2a := ch.a1t + 1, ntrl := h, written := ch.written ||| 0x700#12,
          hdmaTerminated := decide (h = 0), hdmaDoTransfer := decide (h ≠ 0) } ∧
        (∀ d, d ≠ c → channel u d = { channel s d with hdmaTerminated := true, hdmaDoTransfer := false }) ∧
        u.mdmaen = s.mdmaen &&& ~~~(1#8 <<< c.val) ∧ u.openBus = h ∧
        { u with channels := s.channels, mdmaen := s.mdmaen, openBus := s.openBus } = s) ∧
  (∀ s t : State, hdmaInit s = .ok () t →
      ∃ (f : Nat → State) (cost : Nat → Nat), f 0 = s ∧
        (∀ c : Chan,
          let u := f c.val
          let ch := channel u c
          (s.hdmaen.getLsbD c.val = false → cost c.val = 0 ∧
            f (c.val + 1) = setChannel c { ch with hdmaTerminated := true, hdmaDoTransfer := false } u) ∧
          (s.hdmaen.getLsbD c.val = true →
            ch.written.getLsbD 2 = true ∧ ch.written.getLsbD 3 = true ∧
            hdmaReload c (setChannel c
              { ch with a2a := ch.a1t, written := ch.written ||| 0x300#12, hdmaTerminated := false }
              { u with mdmaen := u.mdmaen &&& ~~~(1#8 <<< c.val) }) = .ok (cost c.val) (f (c.val + 1)))) ∧
        (s.hdmaen = 0 → t = f 8) ∧
        (s.hdmaen ≠ 0 → t = stallBegin (s.cfg.hdmaOverhead + ((List.range 8).map cost).sum) (f 8))) ∧
  (∀ (s : State) (c : Chan) (r : Nat), s.hdmaen.getLsbD c.val = true →
      (∀ d : Chan, d < c → s.hdmaen.getLsbD d.val = false) → (r = 2 ∨ r = 3) →
      (channel s c).written.getLsbD r = false → (r = 3 → (channel s c).written.getLsbD 2 = true) →
      hdmaInit s = .refused (.unwritten c r)) ∧
  (∀ s v : State, CanFire .video s → irqMode s = 0 → s.dot + 1 ≠ s.cfg.dots → OnlyDot s.cfg (s.dot + 1) 1 →
      s.scanline = 0 →
      hdmaInit { s with
        events := { s.events with video := { s.events.video with queued := false } }, dot := s.dot + 1,
        current := some .video } = .ok () v →
      exec .evVideo s = .next (scheduleAt .video ((event s .video).when + s.cfg.dotCycles) { v with current := none }))

/-- R325 to R327, R333, R129: a unit of any pattern but 4 and 5, of 1, 2 or 4 bytes, direct from the table or indirect
from the pointer, in either direction, between plain memory on both sides: the bytes in their order, the cursor or
the pointer past them, within its bank, and the cost. A unit of pattern 4 or 5 faults. A register byte the unit needs
and that has not been written is refused (R47, R466; of DASL and DASH the model's reading, log 31). -/
def Obligations.HdmaUnitMoves : Prop :=
  ∀ (s : State) (c : Chan), MemoryWf s.mem →
    let ch := channel s c
    let p := (ch.dmap.extractLsb' 0 3).toNat
    let n := [1, 2, 2, 4, 4, 4, 2, 4].getD p 1
    let offsets := [[0], [0, 1], [0, 0], [0, 0, 1, 1], [], [], [0, 0], [0, 0, 1, 1]].getD p []
    let a (k : Nat) : Addr :=
      if ch.dmap.getLsbD 6 = true then ch.dasb ++ (ch.das + BitVec.ofNat 16 k) else ch.a1b ++ (ch.a2a + BitVec.ofNat 16 k)
    let b (k : Nat) : Addr := 0x0021#16 ++ (ch.bbad + BitVec.ofNat 8 (offsets.getD k 0))
    let src (k : Nat) := location s (if ch.dmap.getLsbD 7 = true then b k else a k)
    let dst (k : Nat) := location s (if ch.dmap.getLsbD 7 = true then a k else b k)
    (ch.written.getLsbD 1 = false → hdmaUnit c s = .refused (.unwritten c 1)) ∧
    (ch.written.getLsbD 1 = true →
      (p ≠ 4 → p ≠ 5 → (ch.dmap.getLsbD 6 = true → ∀ r ∈ [5, 6, 7], ch.written.getLsbD r = true) →
        (∀ k < n, dmaRegWindow (a k) = false ∧ windowReg (b k) = none ∧
          regionKind s (a k) = some .ram ∧ regionKind s (b k) = some .ram) →
        ∃ t, hdmaUnit c s = .ok (n * s.cfg.hdmaByte) t ∧
          t.mem = (List.range n).foldl (fun m k => writeByte (dst k) (readByte m (src k)) m) s.mem ∧
          t.openBus = readByte t.mem (dst (n - 1)) ∧
          channel t c = (if ch.dmap.getLsbD 6 = true then { ch with das := ch.das + BitVec.ofNat 16 n }
            else { ch with a2a := ch.a2a + BitVec.ofNat 16 n }) ∧
          (∀ d, d ≠ c → channel t d = channel s d) ∧
          { t with mem := s.mem, openBus := s.openBus, channels := s.channels } = s) ∧
      (p = 4 ∨ p = 5 → hdmaUnit c s = .raised { s with
        fault := some { code := .dmaPattern, info := .pattern c p, instr := (presented s).instrAddr,
                        event := s.current } }) ∧
      (p ≠ 4 → p ≠ 5 → ch.dmap.getLsbD 6 = true →
        (ch.written.getLsbD 7 = false → hdmaUnit c s = .refused (.unwritten c 7)) ∧
        (ch.written.getLsbD 7 = true → ch.written.getLsbD 5 = false → hdmaUnit c s = .refused (.unwritten c 5)) ∧
        (ch.written.getLsbD 7 = true → ch.written.getLsbD 5 = true → ch.written.getLsbD 6 = false →
          hdmaUnit c s = .refused (.unwritten c 6))))

/-- R321, R324, R330: at the line dot with no live channel a tick changes nothing but its position; with a live one, a
tick that does not fault leaves the CPU blocked by a stall of at least the overhead; the tick at the line dot runs the
burst; the per-frame reload with no channel enabled terminates every channel. R331, R330: a burst handles the live
channels in ascending order, each with its unit, if one is due, and its line count, and its stall is exactly the
overhead and the sum of their costs. -/
def Obligations.HdmaBursts : Prop :=
  (∀ s : State, CanFire .video s → irqMode s = 0 → s.dot + 1 ≠ s.cfg.dots → OnlyDot s.cfg (s.dot + 1) 6 →
      s.scanline < s.cfg.vblankLine →
      let live (c : Chan) := s.hdmaen.getLsbD c.val = true ∧ (channel s c).hdmaTerminated = false
      ((∀ c, ¬ live c) → exec .evVideo s = .next (scheduleAt .video ((event s .video).when + s.cfg.dotCycles) { s with
        events := { s.events with video := { s.events.video with queued := false } }, dot := s.dot + 1,
        current := none })) ∧
      (∀ c t, live c → 0 < s.cfg.hdmaOverhead → exec .evVideo s = .next t → Live t →
        t.stallActive = true ∧ (event t .stall).queued = true ∧ (event t .stall).when = t.stallUntil ∧
        t.committed + s.cfg.hdmaOverhead + s.cfg.hdmaChannel ≤ t.stallUntil)) ∧
  (∀ s : State, s.hdmaen = 0 → ∃ t, hdmaInit s = .ok () t ∧
      (∀ c, channel t c = { channel s c with hdmaTerminated := true, hdmaDoTransfer := false }) ∧
      { t with channels := s.channels } = s) ∧
  (∀ s v : State, CanFire .video s → irqMode s = 0 → s.dot + 1 ≠ s.cfg.dots → OnlyDot s.cfg (s.dot + 1) 6 →
      s.scanline < s.cfg.vblankLine →
      hdmaLine { s with
        events := { s.events with video := { s.events.video with queued := false } }, dot := s.dot + 1,
        current := some .video } = .ok () v →
      exec .evVideo s = .next (scheduleAt .video ((event s .video).when + s.cfg.dotCycles) { v with current := none })) ∧
  (∀ s t : State, hdmaLine s = .ok () t →
      ∃ (f : Nat → State) (cost : Nat → Nat), f 0 = s ∧
        let live (c : Chan) := s.hdmaen.getLsbD c.val = true ∧ (channel (f c.val) c).hdmaTerminated = false
        (∀ c : Chan,
          (¬ live c → f (c.val + 1) = f c.val ∧ cost c.val = 0) ∧
          (live c → ∃ (m : State) (x y : Nat),
            ((channel (f c.val) c).hdmaDoTransfer = false → m = f c.val ∧ x = 0) ∧
            ((channel (f c.val) c).hdmaDoTransfer = true → hdmaUnit c (f c.val) = .ok x m) ∧
            hdmaCount c m = .ok y (f (c.val + 1)) ∧ cost c.val = s.cfg.hdmaChannel + x + y)) ∧
        ((∀ c, ¬ live c) → t = f 8) ∧
        (∀ c, live c → t = stallBegin (s.cfg.hdmaOverhead + ((List.range 8).map cost).sum) (f 8)))

/-! ## Host operations -/

/-- R394, R395, R138: PAUSE, RESUME and IS_PAUSED; a paused block's RUN_FRAME and RUN_INSTRUCTION change nothing;
SET_KEY writes one button bit of one port, and a bit below 4 is refused. -/
def Obligations.HostSwitches : Prop :=
  (∀ s : State, exec .isPaused s = .next { s with reply := .bit s.paused }) ∧
  (∀ s : State, Live s →
      exec .pause s = .next { s with paused := true } ∧ exec .resume s = .next { s with paused := false } ∧
      (s.paused = true → exec .runFrame s = .next s ∧ exec .runInstruction s = .next s)) ∧
  (∀ (s : State) (bit : BitVec 4) (port : BitVec 1) (pressed : Bool),
      (4 ≤ bit.toNat → Live s → ∃ t, exec (.setKey bit port pressed) s = .next t ∧
        (∀ (p : Fin 2) (k : Nat), k < 16 → t.joyInput[p].getLsbD k =
          if p.val = port.toNat ∧ k = bit.toNat then pressed else s.joyInput[p].getLsbD k) ∧
        { t with joyInput := s.joyInput } = s) ∧
      (bit.toNat < 4 → exec (.setKey bit port pressed) s = .refused .badCommand))

/-- R398, R411: in the fault state every well-formed word but RESET changes nothing; the three commands that return a
value return it (R168, R395; log 18). -/
def Obligations.FaultStateIsFrozen : Prop :=
  (∀ (i : Instr) (s : State), s.fault ≠ none → i.wellFormed = true → i ≠ .reset → i ≠ .isPaused → i ≠ .anyEventDue →
      (∀ n, i ≠ .advance n) → exec i s = .next s) ∧
  (∀ s : State, s.fault ≠ none →
      exec .isPaused s = .next { s with reply := .bit s.paused } ∧
      (∃ b, exec .anyEventDue s = .next { s with reply := .bit b }) ∧
      ∀ n : BitVec 48, exec (.advance n) s = .next { s with reply := .delay none })

/-- R392: RUN_FRAME repeats STEP until a vertical blank entry or a fault, and returns the state that leaves; one that
returns without a fault returns after a vertical blank entry, which the frame counter shows. -/
def Obligations.RunFrameRepeatsStep : Prop :=
  (∀ (k : Nat) (s t : State), Live s → s.paused = false → k ≤ 2 ^ 64 →
      Steps (fun u => u.frameDone = false ∧ Live u) k { s with frameDone := false } t →
      (t.frameDone = true ∨ t.fault ≠ none) → exec .runFrame s = .next t) ∧
  (∀ s t : State, Live s → s.paused = false → exec .runFrame s = .next t → Live t →
      t.frameDone = true ∧ s.frameCounter < t.frameCounter)

/-- R392, R362, R197: RUN_FRAME from the last dot before vertical blank, with EV_VIDEO alone queued and due: it
completes in one step, at the vertical blank entry. -/
def Obligations.RunFrameCompletes : Prop :=
  ∀ s : State, Live s → brokenInvariant s = none → s.cfg.Valid → s.paused = false →
    (∀ e, (event s e).queued = true ↔ e = .video) → (event s .video).when ≤ s.committed + s.ahead →
    s.committed + s.ahead < (event s .video).when + s.cfg.dotCycles → s.dot + 1 = s.cfg.dots →
    s.scanline + 1 = s.cfg.vblankLine → irqMode s = 0 → OnlyDot s.cfg 0 7 →
    exec .runFrame s = .next { s with
      committed := s.committed + s.ahead, ahead := 0, dot := 0, scanline := s.cfg.vblankLine, vblank := true,
      nmiFlag := true, nmiRequest := s.nmiRequest || (s.nmitimen.getLsbD 7 && !s.nmiPrev),
      nmiPrev := s.nmitimen.getLsbD 7, frameCounter := s.frameCounter + 1, frameDone := true, current := none
      events := { s.events with
        video := { when := (event s .video).when + s.cfg.dotCycles, seq := s.seqCounter, queued := true } }
      seqCounter := s.seqCounter + 1 }

/-- R393: RUN_INSTRUCTION of a CPU that is waiting or stopped is one STEP; of a running one it performs operations
up to the next instruction boundary, here one IDLE. -/
def Obligations.RunInstructionCompletes : Prop :=
  ∀ s : State, Live s → s.paused = false →
    (s.cpuState ≠ .running → exec .runInstruction s = exec .stepOnce s) ∧
    (∀ (r next : CpuRequest) (rest : List CpuRequest), brokenInvariant s = none → granted s = true →
      s.port = [] → s.cpuScript = r :: next :: rest → r.word = 0x500000000 → next.word.extractLsb' 32 4 = 0 →
      exec .runInstruction s = .next { s with ahead := s.ahead + s.cfg.idleCycles, cpuScript := next :: rest })

/-! ## Invariants and whole-machine rules -/

/-- R67 (a) and (d), R90, R138: every step of every kind keeps a sound state sound. -/
def Obligations.EveryStepKeepsSound : Prop :=
  ∀ s t : State, Sound s → step s = .next t → Sound t

/-- R67: the run loop keeps the state invariants, and from a regular state it never raises FAULT_INVARIANT. -/
def Obligations.RunLoopKeepsRegular : Prop :=
  ∀ (i : Instr) (s t : State), (i = .stepOnce ∨ i = .runFrame ∨ i = .runInstruction) → Regular s →
    exec i s = .next t → Regular t ∧ (Live s → ∀ f, t.fault = some f → f.code ≠ .invariant)

/-- R366, R367: the run loop keeps the position law, and once every EV_VIDEO that is due has fired the position is
the one the clock gives. -/
def Obligations.PositionLaw : Prop :=
  (∀ (i : Instr) (s t : State), (i = .stepOnce ∨ i = .runFrame ∨ i = .runInstruction) → s.cfg.Valid → OnTime s →
    exec i s = .next t → Live t → OnTime t) ∧
  (∀ s : State, s.cfg.Valid → OnTime s → s.committed < (event s .video).when →
    let k := s.committed / s.cfg.dotCycles
    s.dot = k % s.cfg.dots ∧ s.scanline = k / s.cfg.dots % s.cfg.lines ∧
    (s.field = true ↔ k / (s.cfg.dots * s.cfg.lines) % 2 = 1))

/-- R350: the counters change only in a video tick: no instruction that cannot fire EV_VIDEO moves the position. -/
def Obligations.OnlyTicksMoveThePosition : Prop :=
  ∀ (i : Instr) (s t : State), i ≠ .evVideo → (∀ n, i ≠ .advance n) → i ≠ .stepOnce → i ≠ .runFrame →
    i ≠ .runInstruction → i ≠ .reset → exec i s = .next t →
    t.dot = s.dot ∧ t.scanline = s.scanline ∧ t.field = s.field ∧ t.vblank = s.vblank ∧ t.hblank = s.hblank

/-- R173, R31, R5, R12, R396: time never goes back but by a RESET; no step changes the parameters or the router's
table. -/
def Obligations.TimeAndParameters : Prop :=
  (∀ s t : State, step s = .next t → (∀ p, s.inbox.head? = some p → decode p ≠ .ok .reset) →
      s.committed + s.ahead ≤ t.committed + t.ahead ∧ s.committed ≤ t.committed) ∧
  (∀ s t : State, step s = .next t → t.cfg = s.cfg ∧ t.regions = s.regions)

/-- R95, R110: every byte of router memory stays under every instruction that is no store, no RESET and cannot run a
DMA or the CPU. -/
def Obligations.MemoryFrame : Prop :=
  ∀ (i : Instr) (s t : State), (∀ a v, i ≠ .memoryStore a v) → i ≠ .reset → i ≠ .evVideo → i ≠ .evDma → (∀ n, i ≠ .advance n) →
    i ≠ .stepOnce → i ≠ .runFrame → i ≠ .runInstruction → exec i s = .next t →
    ∀ x, readByte t.mem x = readByte s.mem x
end

