-- ==== Sys2Proof/Laws/Memory.lean ====
section
/-! SUPPORT. Router memory: read after write, and that a write keeps the canonical form. -/

namespace Sys2Proof.Machine

@[simp] theorem readByte_nil (a : Nat) : readByte [] a = blankByte := rfl

/-- A byte just written is the byte read. -/
@[simp] theorem readByte_writeByte_same (a : Nat) (v : Byte) (m : List Host.Cell)
    (h : m.Pairwise fun x y => x.1 < y.1) : readByte (writeByte a v m) a = v := by
  induction m with
  | nil => simp only [writeByte]; split <;> simp_all [readByte]
  | cons c rest ih =>
    obtain ⟨b, w⟩ := c
    obtain ⟨hlo, hrest⟩ := List.pairwise_cons.1 h
    have low : ∀ l : List Host.Cell, (∀ x ∈ l, a < x.1) → readByte l a = blankByte := by
      intro l
      induction l with
      | nil => simp
      | cons y l ihl =>
        intro hy
        have := hy y (by simp)
        simp only [readByte, if_neg (Nat.ne_of_lt this)]
        exact ihl fun x hx => hy x (by simp [hx])
    simp only [writeByte]
    split
    · rename_i hab
      split
      · rename_i hv
        rw [hv]
        refine low _ fun x hx => ?_
        rcases List.mem_cons.1 hx with rfl | hx
        · exact hab
        · exact Nat.lt_trans hab (hlo x hx)
      · simp [readByte]
    · split
      · rename_i hab
        subst hab
        split
        · rename_i hv
          rw [hv]
          exact low _ fun x hx => hlo x hx
        · simp [readByte]
      · rename_i hne
        simp only [readByte, if_neg hne]
        exact ih hrest

/-- A write leaves every other byte alone. -/
theorem readByte_writeByte_other {a x : Nat} (v : Byte) (m : List Host.Cell) (hx : x ≠ a) :
    readByte (writeByte a v m) x = readByte m x := by
  induction m with
  | nil => simp only [writeByte]; split <;> simp [readByte, hx]
  | cons c rest ih =>
    obtain ⟨b, w⟩ := c
    simp only [writeByte]
    split
    · split <;> simp [readByte, hx]
    · split
      · rename_i hab
        subst hab
        split <;> simp [readByte, hx]
      · simp only [readByte, ih]

theorem mem_writeByte {a : Nat} {v : Byte} {m : List Host.Cell} {c : Host.Cell}
    (h : c ∈ writeByte a v m) : c ∈ m ∨ (c = (a, v) ∧ v ≠ blankByte) := by
  induction m with
  | nil =>
    simp only [writeByte] at h
    split at h
    · simp at h
    · simp_all
  | cons d rest ih =>
    obtain ⟨b, w⟩ := d
    simp only [writeByte] at h
    split at h
    · split at h
      · exact .inl h
      · rcases List.mem_cons.1 h with h | h
        · exact .inr ⟨h, ‹_›⟩
        · exact .inl h
    · split at h
      · split at h
        · exact .inl (List.mem_cons_of_mem _ h)
        · rcases List.mem_cons.1 h with h | h
          · exact .inr ⟨h, ‹_›⟩
          · exact .inl (List.mem_cons_of_mem _ h)
      · rcases List.mem_cons.1 h with h | h
        · exact .inl (h ▸ List.mem_cons_self)
        · rcases ih h with h | h
          · exact .inl (List.mem_cons_of_mem _ h)
          · exact .inr h

theorem pairwise_writeByte {a : Nat} {v : Byte} {m : List Host.Cell}
    (h : m.Pairwise fun x y => x.1 < y.1) : (writeByte a v m).Pairwise fun x y => x.1 < y.1 := by
  induction m with
  | nil => simp only [writeByte]; split <;> simp
  | cons d rest ih =>
    obtain ⟨b, w⟩ := d
    obtain ⟨hlo, hrest⟩ := List.pairwise_cons.1 h
    simp only [writeByte]
    split
    · rename_i hab
      split
      · exact h
      · refine List.pairwise_cons.2 ⟨fun x hx => ?_, h⟩
        rcases List.mem_cons.1 hx with rfl | hx
        · exact hab
        · exact Nat.lt_trans hab (hlo x hx)
    · split
      · rename_i hab
        subst hab
        split
        · exact hrest
        · exact List.pairwise_cons.2 ⟨hlo, hrest⟩
      · refine List.pairwise_cons.2 ⟨fun x hx => ?_, ih hrest⟩
        rcases mem_writeByte hx with hx | ⟨rfl, -⟩
        · exact hlo x hx
        · simp only; omega

/-- A write inside the address space keeps the canonical form. -/
theorem MemoryWf.writeByte {m : List Host.Cell} (h : MemoryWf m) {a : Nat} (ha : a < 2 ^ 24) (v : Byte) :
    MemoryWf (writeByte a v m) := by
  refine ⟨pairwise_writeByte h.1, fun c hc => ?_, fun c hc => ?_⟩
  · rcases mem_writeByte hc with hc | ⟨rfl, hv⟩
    · exact h.2.1 c hc
    · exact hv
  · rcases mem_writeByte hc with hc | ⟨rfl, -⟩
    · exact h.2.2 c hc
    · exact ha

/-- Every address of the A-bus has its place in 24 bits of router memory (R90; log 8). -/
theorem location_lt (s : State) (a : Addr) : location s a < 2 ^ 24 := by
  unfold location
  split <;> exact BitVec.isLt _

theorem MemoryWf.nil : MemoryWf [] := by simp [MemoryWf]

/-- Router memory after reset is canonical. -/
theorem reset_memoryWf : MemoryWf State.reset.mem := MemoryWf.nil

end Sys2Proof.Machine
end

