-- ==== Sys2Proof/Laws/State.lean ====
section
/-! SUPPORT. The small lemmas of the named updates of the state: what each does to every field, so that no
later proof unfolds a record update. -/

namespace Sys2Proof.Machine

/-! ### driveBus -/

@[simp] theorem driveBus_committed (v : Byte) (s : State) :
    (driveBus v s).committed = s.committed := rfl

@[simp] theorem driveBus_ahead (v : Byte) (s : State) :
    (driveBus v s).ahead = s.ahead := rfl

@[simp] theorem driveBus_seqCounter (v : Byte) (s : State) :
    (driveBus v s).seqCounter = s.seqCounter := rfl

@[simp] theorem driveBus_events (v : Byte) (s : State) :
    (driveBus v s).events = s.events := rfl

@[simp] theorem driveBus_openBus (v : Byte) (s : State) :
    (driveBus v s).openBus = v := rfl

@[simp] theorem driveBus_cpuState (v : Byte) (s : State) :
    (driveBus v s).cpuState = s.cpuState := rfl

@[simp] theorem driveBus_gdmaActive (v : Byte) (s : State) :
    (driveBus v s).gdmaActive = s.gdmaActive := rfl

@[simp] theorem driveBus_stallActive (v : Byte) (s : State) :
    (driveBus v s).stallActive = s.stallActive := rfl

@[simp] theorem driveBus_stallUntil (v : Byte) (s : State) :
    (driveBus v s).stallUntil = s.stallUntil := rfl

@[simp] theorem driveBus_memsel (v : Byte) (s : State) :
    (driveBus v s).memsel = s.memsel := rfl

@[simp] theorem driveBus_fault (v : Byte) (s : State) :
    (driveBus v s).fault = s.fault := rfl

@[simp] theorem driveBus_channels (v : Byte) (s : State) :
    (driveBus v s).channels = s.channels := rfl

@[simp] theorem driveBus_mdmaen (v : Byte) (s : State) :
    (driveBus v s).mdmaen = s.mdmaen := rfl

@[simp] theorem driveBus_hdmaen (v : Byte) (s : State) :
    (driveBus v s).hdmaen = s.hdmaen := rfl

@[simp] theorem driveBus_gdmaPhase (v : Byte) (s : State) :
    (driveBus v s).gdmaPhase = s.gdmaPhase := rfl

@[simp] theorem driveBus_gdmaChannel (v : Byte) (s : State) :
    (driveBus v s).gdmaChannel = s.gdmaChannel := rfl

@[simp] theorem driveBus_gdmaIndex (v : Byte) (s : State) :
    (driveBus v s).gdmaIndex = s.gdmaIndex := rfl

@[simp] theorem driveBus_dot (v : Byte) (s : State) :
    (driveBus v s).dot = s.dot := rfl

@[simp] theorem driveBus_scanline (v : Byte) (s : State) :
    (driveBus v s).scanline = s.scanline := rfl

@[simp] theorem driveBus_hblank (v : Byte) (s : State) :
    (driveBus v s).hblank = s.hblank := rfl

@[simp] theorem driveBus_vblank (v : Byte) (s : State) :
    (driveBus v s).vblank = s.vblank := rfl

@[simp] theorem driveBus_field (v : Byte) (s : State) :
    (driveBus v s).field = s.field := rfl

@[simp] theorem driveBus_nmitimen (v : Byte) (s : State) :
    (driveBus v s).nmitimen = s.nmitimen := rfl

@[simp] theorem driveBus_htime (v : Byte) (s : State) :
    (driveBus v s).htime = s.htime := rfl

@[simp] theorem driveBus_vtime (v : Byte) (s : State) :
    (driveBus v s).vtime = s.vtime := rfl

@[simp] theorem driveBus_nmiFlag (v : Byte) (s : State) :
    (driveBus v s).nmiFlag = s.nmiFlag := rfl

@[simp] theorem driveBus_nmiPrev (v : Byte) (s : State) :
    (driveBus v s).nmiPrev = s.nmiPrev := rfl

@[simp] theorem driveBus_nmiRequest (v : Byte) (s : State) :
    (driveBus v s).nmiRequest = s.nmiRequest := rfl

@[simp] theorem driveBus_irqFlag (v : Byte) (s : State) :
    (driveBus v s).irqFlag = s.irqFlag := rfl

@[simp] theorem driveBus_autoJoyBusy (v : Byte) (s : State) :
    (driveBus v s).autoJoyBusy = s.autoJoyBusy := rfl

@[simp] theorem driveBus_joy (v : Byte) (s : State) :
    (driveBus v s).joy = s.joy := rfl

@[simp] theorem driveBus_joyInput (v : Byte) (s : State) :
    (driveBus v s).joyInput = s.joyInput := rfl

@[simp] theorem driveBus_wrio (v : Byte) (s : State) :
    (driveBus v s).wrio = s.wrio := rfl

@[simp] theorem driveBus_latchH (v : Byte) (s : State) :
    (driveBus v s).latchH = s.latchH := rfl

@[simp] theorem driveBus_latchV (v : Byte) (s : State) :
    (driveBus v s).latchV = s.latchV := rfl

@[simp] theorem driveBus_latchFlag (v : Byte) (s : State) :
    (driveBus v s).latchFlag = s.latchFlag := rfl

@[simp] theorem driveBus_ophctFF (v : Byte) (s : State) :
    (driveBus v s).ophctFF = s.ophctFF := rfl

@[simp] theorem driveBus_opvctFF (v : Byte) (s : State) :
    (driveBus v s).opvctFF = s.opvctFF := rfl

@[simp] theorem driveBus_frameCounter (v : Byte) (s : State) :
    (driveBus v s).frameCounter = s.frameCounter := rfl

@[simp] theorem driveBus_frameDone (v : Byte) (s : State) :
    (driveBus v s).frameDone = s.frameDone := rfl

@[simp] theorem driveBus_paused (v : Byte) (s : State) :
    (driveBus v s).paused = s.paused := rfl

@[simp] theorem driveBus_cfg (v : Byte) (s : State) :
    (driveBus v s).cfg = s.cfg := rfl

@[simp] theorem driveBus_regions (v : Byte) (s : State) :
    (driveBus v s).regions = s.regions := rfl

@[simp] theorem driveBus_mem (v : Byte) (s : State) :
    (driveBus v s).mem = s.mem := rfl

@[simp] theorem driveBus_routerState (v : Byte) (s : State) :
    (driveBus v s).routerState = s.routerState := rfl

@[simp] theorem driveBus_cpuScript (v : Byte) (s : State) :
    (driveBus v s).cpuScript = s.cpuScript := rfl

@[simp] theorem driveBus_cpuEngine (v : Byte) (s : State) :
    (driveBus v s).cpuEngine = s.cpuEngine := rfl

@[simp] theorem driveBus_port (v : Byte) (s : State) :
    (driveBus v s).port = s.port := rfl

@[simp] theorem driveBus_inbox (v : Byte) (s : State) :
    (driveBus v s).inbox = s.inbox := rfl

@[simp] theorem driveBus_draws (v : Byte) (s : State) :
    (driveBus v s).draws = s.draws := rfl

@[simp] theorem driveBus_current (v : Byte) (s : State) :
    (driveBus v s).current = s.current := rfl

@[simp] theorem driveBus_cpuByte (v : Byte) (s : State) :
    (driveBus v s).cpuByte = s.cpuByte := rfl

@[simp] theorem driveBus_reply (v : Byte) (s : State) :
    (driveBus v s).reply = s.reply := rfl

@[simp] theorem driveBus_outputs (v : Byte) (s : State) :
    (driveBus v s).outputs = s.outputs := rfl

/-! ### emit -/

@[simp] theorem emit_committed (o : Output) (s : State) :
    (emit o s).committed = s.committed := rfl

@[simp] theorem emit_ahead (o : Output) (s : State) :
    (emit o s).ahead = s.ahead := rfl

@[simp] theorem emit_seqCounter (o : Output) (s : State) :
    (emit o s).seqCounter = s.seqCounter := rfl

@[simp] theorem emit_events (o : Output) (s : State) :
    (emit o s).events = s.events := rfl

@[simp] theorem emit_openBus (o : Output) (s : State) :
    (emit o s).openBus = s.openBus := rfl

@[simp] theorem emit_cpuState (o : Output) (s : State) :
    (emit o s).cpuState = s.cpuState := rfl

@[simp] theorem emit_gdmaActive (o : Output) (s : State) :
    (emit o s).gdmaActive = s.gdmaActive := rfl

@[simp] theorem emit_stallActive (o : Output) (s : State) :
    (emit o s).stallActive = s.stallActive := rfl

@[simp] theorem emit_stallUntil (o : Output) (s : State) :
    (emit o s).stallUntil = s.stallUntil := rfl

@[simp] theorem emit_memsel (o : Output) (s : State) :
    (emit o s).memsel = s.memsel := rfl

@[simp] theorem emit_fault (o : Output) (s : State) :
    (emit o s).fault = s.fault := rfl

@[simp] theorem emit_channels (o : Output) (s : State) :
    (emit o s).channels = s.channels := rfl

@[simp] theorem emit_mdmaen (o : Output) (s : State) :
    (emit o s).mdmaen = s.mdmaen := rfl

@[simp] theorem emit_hdmaen (o : Output) (s : State) :
    (emit o s).hdmaen = s.hdmaen := rfl

@[simp] theorem emit_gdmaPhase (o : Output) (s : State) :
    (emit o s).gdmaPhase = s.gdmaPhase := rfl

@[simp] theorem emit_gdmaChannel (o : Output) (s : State) :
    (emit o s).gdmaChannel = s.gdmaChannel := rfl

@[simp] theorem emit_gdmaIndex (o : Output) (s : State) :
    (emit o s).gdmaIndex = s.gdmaIndex := rfl

@[simp] theorem emit_dot (o : Output) (s : State) :
    (emit o s).dot = s.dot := rfl

@[simp] theorem emit_scanline (o : Output) (s : State) :
    (emit o s).scanline = s.scanline := rfl

@[simp] theorem emit_hblank (o : Output) (s : State) :
    (emit o s).hblank = s.hblank := rfl

@[simp] theorem emit_vblank (o : Output) (s : State) :
    (emit o s).vblank = s.vblank := rfl

@[simp] theorem emit_field (o : Output) (s : State) :
    (emit o s).field = s.field := rfl

@[simp] theorem emit_nmitimen (o : Output) (s : State) :
    (emit o s).nmitimen = s.nmitimen := rfl

@[simp] theorem emit_htime (o : Output) (s : State) :
    (emit o s).htime = s.htime := rfl

@[simp] theorem emit_vtime (o : Output) (s : State) :
    (emit o s).vtime = s.vtime := rfl

@[simp] theorem emit_nmiFlag (o : Output) (s : State) :
    (emit o s).nmiFlag = s.nmiFlag := rfl

@[simp] theorem emit_nmiPrev (o : Output) (s : State) :
    (emit o s).nmiPrev = s.nmiPrev := rfl

@[simp] theorem emit_nmiRequest (o : Output) (s : State) :
    (emit o s).nmiRequest = s.nmiRequest := rfl

@[simp] theorem emit_irqFlag (o : Output) (s : State) :
    (emit o s).irqFlag = s.irqFlag := rfl

@[simp] theorem emit_autoJoyBusy (o : Output) (s : State) :
    (emit o s).autoJoyBusy = s.autoJoyBusy := rfl

@[simp] theorem emit_joy (o : Output) (s : State) :
    (emit o s).joy = s.joy := rfl

@[simp] theorem emit_joyInput (o : Output) (s : State) :
    (emit o s).joyInput = s.joyInput := rfl

@[simp] theorem emit_wrio (o : Output) (s : State) :
    (emit o s).wrio = s.wrio := rfl

@[simp] theorem emit_latchH (o : Output) (s : State) :
    (emit o s).latchH = s.latchH := rfl

@[simp] theorem emit_latchV (o : Output) (s : State) :
    (emit o s).latchV = s.latchV := rfl

@[simp] theorem emit_latchFlag (o : Output) (s : State) :
    (emit o s).latchFlag = s.latchFlag := rfl

@[simp] theorem emit_ophctFF (o : Output) (s : State) :
    (emit o s).ophctFF = s.ophctFF := rfl

@[simp] theorem emit_opvctFF (o : Output) (s : State) :
    (emit o s).opvctFF = s.opvctFF := rfl

@[simp] theorem emit_frameCounter (o : Output) (s : State) :
    (emit o s).frameCounter = s.frameCounter := rfl

@[simp] theorem emit_frameDone (o : Output) (s : State) :
    (emit o s).frameDone = s.frameDone := rfl

@[simp] theorem emit_paused (o : Output) (s : State) :
    (emit o s).paused = s.paused := rfl

@[simp] theorem emit_cfg (o : Output) (s : State) :
    (emit o s).cfg = s.cfg := rfl

@[simp] theorem emit_regions (o : Output) (s : State) :
    (emit o s).regions = s.regions := rfl

@[simp] theorem emit_mem (o : Output) (s : State) :
    (emit o s).mem = s.mem := rfl

@[simp] theorem emit_routerState (o : Output) (s : State) :
    (emit o s).routerState = s.routerState := rfl

@[simp] theorem emit_cpuScript (o : Output) (s : State) :
    (emit o s).cpuScript = s.cpuScript := rfl

@[simp] theorem emit_cpuEngine (o : Output) (s : State) :
    (emit o s).cpuEngine = s.cpuEngine := rfl

@[simp] theorem emit_port (o : Output) (s : State) :
    (emit o s).port = s.port := rfl

@[simp] theorem emit_inbox (o : Output) (s : State) :
    (emit o s).inbox = s.inbox := rfl

@[simp] theorem emit_draws (o : Output) (s : State) :
    (emit o s).draws = s.draws := rfl

@[simp] theorem emit_current (o : Output) (s : State) :
    (emit o s).current = s.current := rfl

@[simp] theorem emit_cpuByte (o : Output) (s : State) :
    (emit o s).cpuByte = s.cpuByte := rfl

@[simp] theorem emit_reply (o : Output) (s : State) :
    (emit o s).reply = s.reply := rfl

@[simp] theorem emit_outputs (o : Output) (s : State) :
    (emit o s).outputs = o :: s.outputs := rfl

/-! ### deviceSeesRead -/

@[simp] theorem deviceSeesRead_committed (a : Addr) (s : State) :
    (deviceSeesRead a s).committed = s.committed := rfl

@[simp] theorem deviceSeesRead_ahead (a : Addr) (s : State) :
    (deviceSeesRead a s).ahead = s.ahead := rfl

@[simp] theorem deviceSeesRead_seqCounter (a : Addr) (s : State) :
    (deviceSeesRead a s).seqCounter = s.seqCounter := rfl

@[simp] theorem deviceSeesRead_events (a : Addr) (s : State) :
    (deviceSeesRead a s).events = s.events := rfl

@[simp] theorem deviceSeesRead_openBus (a : Addr) (s : State) :
    (deviceSeesRead a s).openBus = s.openBus := rfl

@[simp] theorem deviceSeesRead_cpuState (a : Addr) (s : State) :
    (deviceSeesRead a s).cpuState = s.cpuState := rfl

@[simp] theorem deviceSeesRead_gdmaActive (a : Addr) (s : State) :
    (deviceSeesRead a s).gdmaActive = s.gdmaActive := rfl

@[simp] theorem deviceSeesRead_stallActive (a : Addr) (s : State) :
    (deviceSeesRead a s).stallActive = s.stallActive := rfl

@[simp] theorem deviceSeesRead_stallUntil (a : Addr) (s : State) :
    (deviceSeesRead a s).stallUntil = s.stallUntil := rfl

@[simp] theorem deviceSeesRead_memsel (a : Addr) (s : State) :
    (deviceSeesRead a s).memsel = s.memsel := rfl

@[simp] theorem deviceSeesRead_fault (a : Addr) (s : State) :
    (deviceSeesRead a s).fault = s.fault := rfl

@[simp] theorem deviceSeesRead_channels (a : Addr) (s : State) :
    (deviceSeesRead a s).channels = s.channels := rfl

@[simp] theorem deviceSeesRead_mdmaen (a : Addr) (s : State) :
    (deviceSeesRead a s).mdmaen = s.mdmaen := rfl

@[simp] theorem deviceSeesRead_hdmaen (a : Addr) (s : State) :
    (deviceSeesRead a s).hdmaen = s.hdmaen := rfl

@[simp] theorem deviceSeesRead_gdmaPhase (a : Addr) (s : State) :
    (deviceSeesRead a s).gdmaPhase = s.gdmaPhase := rfl

@[simp] theorem deviceSeesRead_gdmaChannel (a : Addr) (s : State) :
    (deviceSeesRead a s).gdmaChannel = s.gdmaChannel := rfl

@[simp] theorem deviceSeesRead_gdmaIndex (a : Addr) (s : State) :
    (deviceSeesRead a s).gdmaIndex = s.gdmaIndex := rfl

@[simp] theorem deviceSeesRead_dot (a : Addr) (s : State) :
    (deviceSeesRead a s).dot = s.dot := rfl

@[simp] theorem deviceSeesRead_scanline (a : Addr) (s : State) :
    (deviceSeesRead a s).scanline = s.scanline := rfl

@[simp] theorem deviceSeesRead_hblank (a : Addr) (s : State) :
    (deviceSeesRead a s).hblank = s.hblank := rfl

@[simp] theorem deviceSeesRead_vblank (a : Addr) (s : State) :
    (deviceSeesRead a s).vblank = s.vblank := rfl

@[simp] theorem deviceSeesRead_field (a : Addr) (s : State) :
    (deviceSeesRead a s).field = s.field := rfl

@[simp] theorem deviceSeesRead_nmitimen (a : Addr) (s : State) :
    (deviceSeesRead a s).nmitimen = s.nmitimen := rfl

@[simp] theorem deviceSeesRead_htime (a : Addr) (s : State) :
    (deviceSeesRead a s).htime = s.htime := rfl

@[simp] theorem deviceSeesRead_vtime (a : Addr) (s : State) :
    (deviceSeesRead a s).vtime = s.vtime := rfl

@[simp] theorem deviceSeesRead_nmiFlag (a : Addr) (s : State) :
    (deviceSeesRead a s).nmiFlag = s.nmiFlag := rfl

@[simp] theorem deviceSeesRead_nmiPrev (a : Addr) (s : State) :
    (deviceSeesRead a s).nmiPrev = s.nmiPrev := rfl

@[simp] theorem deviceSeesRead_nmiRequest (a : Addr) (s : State) :
    (deviceSeesRead a s).nmiRequest = s.nmiRequest := rfl

@[simp] theorem deviceSeesRead_irqFlag (a : Addr) (s : State) :
    (deviceSeesRead a s).irqFlag = s.irqFlag := rfl

@[simp] theorem deviceSeesRead_autoJoyBusy (a : Addr) (s : State) :
    (deviceSeesRead a s).autoJoyBusy = s.autoJoyBusy := rfl

@[simp] theorem deviceSeesRead_joy (a : Addr) (s : State) :
    (deviceSeesRead a s).joy = s.joy := rfl

@[simp] theorem deviceSeesRead_joyInput (a : Addr) (s : State) :
    (deviceSeesRead a s).joyInput = s.joyInput := rfl

@[simp] theorem deviceSeesRead_wrio (a : Addr) (s : State) :
    (deviceSeesRead a s).wrio = s.wrio := rfl

@[simp] theorem deviceSeesRead_latchH (a : Addr) (s : State) :
    (deviceSeesRead a s).latchH = s.latchH := rfl

@[simp] theorem deviceSeesRead_latchV (a : Addr) (s : State) :
    (deviceSeesRead a s).latchV = s.latchV := rfl

@[simp] theorem deviceSeesRead_latchFlag (a : Addr) (s : State) :
    (deviceSeesRead a s).latchFlag = s.latchFlag := rfl

@[simp] theorem deviceSeesRead_ophctFF (a : Addr) (s : State) :
    (deviceSeesRead a s).ophctFF = s.ophctFF := rfl

@[simp] theorem deviceSeesRead_opvctFF (a : Addr) (s : State) :
    (deviceSeesRead a s).opvctFF = s.opvctFF := rfl

@[simp] theorem deviceSeesRead_frameCounter (a : Addr) (s : State) :
    (deviceSeesRead a s).frameCounter = s.frameCounter := rfl

@[simp] theorem deviceSeesRead_frameDone (a : Addr) (s : State) :
    (deviceSeesRead a s).frameDone = s.frameDone := rfl

@[simp] theorem deviceSeesRead_paused (a : Addr) (s : State) :
    (deviceSeesRead a s).paused = s.paused := rfl

@[simp] theorem deviceSeesRead_cfg (a : Addr) (s : State) :
    (deviceSeesRead a s).cfg = s.cfg := rfl

@[simp] theorem deviceSeesRead_regions (a : Addr) (s : State) :
    (deviceSeesRead a s).regions = s.regions := rfl

@[simp] theorem deviceSeesRead_mem (a : Addr) (s : State) :
    (deviceSeesRead a s).mem = s.mem := rfl

@[simp] theorem deviceSeesRead_routerState (a : Addr) (s : State) :
    (deviceSeesRead a s).routerState = Config.routerAfterRead s.routerState a := rfl

@[simp] theorem deviceSeesRead_cpuScript (a : Addr) (s : State) :
    (deviceSeesRead a s).cpuScript = s.cpuScript := rfl

@[simp] theorem deviceSeesRead_cpuEngine (a : Addr) (s : State) :
    (deviceSeesRead a s).cpuEngine = s.cpuEngine := rfl

@[simp] theorem deviceSeesRead_port (a : Addr) (s : State) :
    (deviceSeesRead a s).port = s.port := rfl

@[simp] theorem deviceSeesRead_inbox (a : Addr) (s : State) :
    (deviceSeesRead a s).inbox = s.inbox := rfl

@[simp] theorem deviceSeesRead_draws (a : Addr) (s : State) :
    (deviceSeesRead a s).draws = s.draws := rfl

@[simp] theorem deviceSeesRead_current (a : Addr) (s : State) :
    (deviceSeesRead a s).current = s.current := rfl

@[simp] theorem deviceSeesRead_cpuByte (a : Addr) (s : State) :
    (deviceSeesRead a s).cpuByte = s.cpuByte := rfl

@[simp] theorem deviceSeesRead_reply (a : Addr) (s : State) :
    (deviceSeesRead a s).reply = s.reply := rfl

@[simp] theorem deviceSeesRead_outputs (a : Addr) (s : State) :
    (deviceSeesRead a s).outputs = s.outputs := rfl

/-! ### deviceSeesWrite -/

@[simp] theorem deviceSeesWrite_committed (a : Addr) (v : Byte) (s : State) :
    (deviceSeesWrite a v s).committed = s.committed := rfl

@[simp] theorem deviceSeesWrite_ahead (a : Addr) (v : Byte) (s : State) :
    (deviceSeesWrite a v s).ahead = s.ahead := rfl

@[simp] theorem deviceSeesWrite_seqCounter (a : Addr) (v : Byte) (s : State) :
    (deviceSeesWrite a v s).seqCounter = s.seqCounter := rfl

@[simp] theorem deviceSeesWrite_events (a : Addr) (v : Byte) (s : State) :
    (deviceSeesWrite a v s).events = s.events := rfl

@[simp] theorem deviceSeesWrite_openBus (a : Addr) (v : Byte) (s : State) :
    (deviceSeesWrite a v s).openBus = s.openBus := rfl

@[simp] theorem deviceSeesWrite_cpuState (a : Addr) (v : Byte) (s : State) :
    (deviceSeesWrite a v s).cpuState = s.cpuState := rfl

@[simp] theorem deviceSeesWrite_gdmaActive (a : Addr) (v : Byte) (s : State) :
    (deviceSeesWrite a v s).gdmaActive = s.gdmaActive := rfl

@[simp] theorem deviceSeesWrite_stallActive (a : Addr) (v : Byte) (s : State) :
    (deviceSeesWrite a v s).stallActive = s.stallActive := rfl

@[simp] theorem deviceSeesWrite_stallUntil (a : Addr) (v : Byte) (s : State) :
    (deviceSeesWrite a v s).stallUntil = s.stallUntil := rfl

@[simp] theorem deviceSeesWrite_memsel (a : Addr) (v : Byte) (s : State) :
    (deviceSeesWrite a v s).memsel = s.memsel := rfl

@[simp] theorem deviceSeesWrite_fault (a : Addr) (v : Byte) (s : State) :
    (deviceSeesWrite a v s).fault = s.fault := rfl

@[simp] theorem deviceSeesWrite_channels (a : Addr) (v : Byte) (s : State) :
    (deviceSeesWrite a v s).channels = s.channels := rfl

@[simp] theorem deviceSeesWrite_mdmaen (a : Addr) (v : Byte) (s : State) :
    (deviceSeesWrite a v s).mdmaen = s.mdmaen := rfl

@[simp] theorem deviceSeesWrite_hdmaen (a : Addr) (v : Byte) (s : State) :
    (deviceSeesWrite a v s).hdmaen = s.hdmaen := rfl

@[simp] theorem deviceSeesWrite_gdmaPhase (a : Addr) (v : Byte) (s : State) :
    (deviceSeesWrite a v s).gdmaPhase = s.gdmaPhase := rfl

@[simp] theorem deviceSeesWrite_gdmaChannel (a : Addr) (v : Byte) (s : State) :
    (deviceSeesWrite a v s).gdmaChannel = s.gdmaChannel := rfl

@[simp] theorem deviceSeesWrite_gdmaIndex (a : Addr) (v : Byte) (s : State) :
    (deviceSeesWrite a v s).gdmaIndex = s.gdmaIndex := rfl

@[simp] theorem deviceSeesWrite_dot (a : Addr) (v : Byte) (s : State) :
    (deviceSeesWrite a v s).dot = s.dot := rfl

@[simp] theorem deviceSeesWrite_scanline (a : Addr) (v : Byte) (s : State) :
    (deviceSeesWrite a v s).scanline = s.scanline := rfl

@[simp] theorem deviceSeesWrite_hblank (a : Addr) (v : Byte) (s : State) :
    (deviceSeesWrite a v s).hblank = s.hblank := rfl

@[simp] theorem deviceSeesWrite_vblank (a : Addr) (v : Byte) (s : State) :
    (deviceSeesWrite a v s).vblank = s.vblank := rfl

@[simp] theorem deviceSeesWrite_field (a : Addr) (v : Byte) (s : State) :
    (deviceSeesWrite a v s).field = s.field := rfl

@[simp] theorem deviceSeesWrite_nmitimen (a : Addr) (v : Byte) (s : State) :
    (deviceSeesWrite a v s).nmitimen = s.nmitimen := rfl

@[simp] theorem deviceSeesWrite_htime (a : Addr) (v : Byte) (s : State) :
    (deviceSeesWrite a v s).htime = s.htime := rfl

@[simp] theorem deviceSeesWrite_vtime (a : Addr) (v : Byte) (s : State) :
    (deviceSeesWrite a v s).vtime = s.vtime := rfl

@[simp] theorem deviceSeesWrite_nmiFlag (a : Addr) (v : Byte) (s : State) :
    (deviceSeesWrite a v s).nmiFlag = s.nmiFlag := rfl

@[simp] theorem deviceSeesWrite_nmiPrev (a : Addr) (v : Byte) (s : State) :
    (deviceSeesWrite a v s).nmiPrev = s.nmiPrev := rfl

@[simp] theorem deviceSeesWrite_nmiRequest (a : Addr) (v : Byte) (s : State) :
    (deviceSeesWrite a v s).nmiRequest = s.nmiRequest := rfl

@[simp] theorem deviceSeesWrite_irqFlag (a : Addr) (v : Byte) (s : State) :
    (deviceSeesWrite a v s).irqFlag = s.irqFlag := rfl

@[simp] theorem deviceSeesWrite_autoJoyBusy (a : Addr) (v : Byte) (s : State) :
    (deviceSeesWrite a v s).autoJoyBusy = s.autoJoyBusy := rfl

@[simp] theorem deviceSeesWrite_joy (a : Addr) (v : Byte) (s : State) :
    (deviceSeesWrite a v s).joy = s.joy := rfl

@[simp] theorem deviceSeesWrite_joyInput (a : Addr) (v : Byte) (s : State) :
    (deviceSeesWrite a v s).joyInput = s.joyInput := rfl

@[simp] theorem deviceSeesWrite_wrio (a : Addr) (v : Byte) (s : State) :
    (deviceSeesWrite a v s).wrio = s.wrio := rfl

@[simp] theorem deviceSeesWrite_latchH (a : Addr) (v : Byte) (s : State) :
    (deviceSeesWrite a v s).latchH = s.latchH := rfl

@[simp] theorem deviceSeesWrite_latchV (a : Addr) (v : Byte) (s : State) :
    (deviceSeesWrite a v s).latchV = s.latchV := rfl

@[simp] theorem deviceSeesWrite_latchFlag (a : Addr) (v : Byte) (s : State) :
    (deviceSeesWrite a v s).latchFlag = s.latchFlag := rfl

@[simp] theorem deviceSeesWrite_ophctFF (a : Addr) (v : Byte) (s : State) :
    (deviceSeesWrite a v s).ophctFF = s.ophctFF := rfl

@[simp] theorem deviceSeesWrite_opvctFF (a : Addr) (v : Byte) (s : State) :
    (deviceSeesWrite a v s).opvctFF = s.opvctFF := rfl

@[simp] theorem deviceSeesWrite_frameCounter (a : Addr) (v : Byte) (s : State) :
    (deviceSeesWrite a v s).frameCounter = s.frameCounter := rfl

@[simp] theorem deviceSeesWrite_frameDone (a : Addr) (v : Byte) (s : State) :
    (deviceSeesWrite a v s).frameDone = s.frameDone := rfl

@[simp] theorem deviceSeesWrite_paused (a : Addr) (v : Byte) (s : State) :
    (deviceSeesWrite a v s).paused = s.paused := rfl

@[simp] theorem deviceSeesWrite_cfg (a : Addr) (v : Byte) (s : State) :
    (deviceSeesWrite a v s).cfg = s.cfg := rfl

@[simp] theorem deviceSeesWrite_regions (a : Addr) (v : Byte) (s : State) :
    (deviceSeesWrite a v s).regions = s.regions := rfl

@[simp] theorem deviceSeesWrite_mem (a : Addr) (v : Byte) (s : State) :
    (deviceSeesWrite a v s).mem = s.mem := rfl

@[simp] theorem deviceSeesWrite_routerState (a : Addr) (v : Byte) (s : State) :
    (deviceSeesWrite a v s).routerState = Config.routerAfterWrite s.routerState a v := rfl

@[simp] theorem deviceSeesWrite_cpuScript (a : Addr) (v : Byte) (s : State) :
    (deviceSeesWrite a v s).cpuScript = s.cpuScript := rfl

@[simp] theorem deviceSeesWrite_cpuEngine (a : Addr) (v : Byte) (s : State) :
    (deviceSeesWrite a v s).cpuEngine = s.cpuEngine := rfl

@[simp] theorem deviceSeesWrite_port (a : Addr) (v : Byte) (s : State) :
    (deviceSeesWrite a v s).port = s.port := rfl

@[simp] theorem deviceSeesWrite_inbox (a : Addr) (v : Byte) (s : State) :
    (deviceSeesWrite a v s).inbox = s.inbox := rfl

@[simp] theorem deviceSeesWrite_draws (a : Addr) (v : Byte) (s : State) :
    (deviceSeesWrite a v s).draws = s.draws := rfl

@[simp] theorem deviceSeesWrite_current (a : Addr) (v : Byte) (s : State) :
    (deviceSeesWrite a v s).current = s.current := rfl

@[simp] theorem deviceSeesWrite_cpuByte (a : Addr) (v : Byte) (s : State) :
    (deviceSeesWrite a v s).cpuByte = s.cpuByte := rfl

@[simp] theorem deviceSeesWrite_reply (a : Addr) (v : Byte) (s : State) :
    (deviceSeesWrite a v s).reply = s.reply := rfl

@[simp] theorem deviceSeesWrite_outputs (a : Addr) (v : Byte) (s : State) :
    (deviceSeesWrite a v s).outputs = .routerWrite a v :: s.outputs := rfl

/-! ### draw8 -/

@[simp] theorem draw8_committed (s : State) :
    (draw8 s).2.committed = s.committed := rfl

@[simp] theorem draw8_ahead (s : State) :
    (draw8 s).2.ahead = s.ahead := rfl

@[simp] theorem draw8_seqCounter (s : State) :
    (draw8 s).2.seqCounter = s.seqCounter := rfl

@[simp] theorem draw8_events (s : State) :
    (draw8 s).2.events = s.events := rfl

@[simp] theorem draw8_openBus (s : State) :
    (draw8 s).2.openBus = s.openBus := rfl

@[simp] theorem draw8_cpuState (s : State) :
    (draw8 s).2.cpuState = s.cpuState := rfl

@[simp] theorem draw8_gdmaActive (s : State) :
    (draw8 s).2.gdmaActive = s.gdmaActive := rfl

@[simp] theorem draw8_stallActive (s : State) :
    (draw8 s).2.stallActive = s.stallActive := rfl

@[simp] theorem draw8_stallUntil (s : State) :
    (draw8 s).2.stallUntil = s.stallUntil := rfl

@[simp] theorem draw8_memsel (s : State) :
    (draw8 s).2.memsel = s.memsel := rfl

@[simp] theorem draw8_fault (s : State) :
    (draw8 s).2.fault = s.fault := rfl

@[simp] theorem draw8_channels (s : State) :
    (draw8 s).2.channels = s.channels := rfl

@[simp] theorem draw8_mdmaen (s : State) :
    (draw8 s).2.mdmaen = s.mdmaen := rfl

@[simp] theorem draw8_hdmaen (s : State) :
    (draw8 s).2.hdmaen = s.hdmaen := rfl

@[simp] theorem draw8_gdmaPhase (s : State) :
    (draw8 s).2.gdmaPhase = s.gdmaPhase := rfl

@[simp] theorem draw8_gdmaChannel (s : State) :
    (draw8 s).2.gdmaChannel = s.gdmaChannel := rfl

@[simp] theorem draw8_gdmaIndex (s : State) :
    (draw8 s).2.gdmaIndex = s.gdmaIndex := rfl

@[simp] theorem draw8_dot (s : State) :
    (draw8 s).2.dot = s.dot := rfl

@[simp] theorem draw8_scanline (s : State) :
    (draw8 s).2.scanline = s.scanline := rfl

@[simp] theorem draw8_hblank (s : State) :
    (draw8 s).2.hblank = s.hblank := rfl

@[simp] theorem draw8_vblank (s : State) :
    (draw8 s).2.vblank = s.vblank := rfl

@[simp] theorem draw8_field (s : State) :
    (draw8 s).2.field = s.field := rfl

@[simp] theorem draw8_nmitimen (s : State) :
    (draw8 s).2.nmitimen = s.nmitimen := rfl

@[simp] theorem draw8_htime (s : State) :
    (draw8 s).2.htime = s.htime := rfl

@[simp] theorem draw8_vtime (s : State) :
    (draw8 s).2.vtime = s.vtime := rfl

@[simp] theorem draw8_nmiFlag (s : State) :
    (draw8 s).2.nmiFlag = s.nmiFlag := rfl

@[simp] theorem draw8_nmiPrev (s : State) :
    (draw8 s).2.nmiPrev = s.nmiPrev := rfl

@[simp] theorem draw8_nmiRequest (s : State) :
    (draw8 s).2.nmiRequest = s.nmiRequest := rfl

@[simp] theorem draw8_irqFlag (s : State) :
    (draw8 s).2.irqFlag = s.irqFlag := rfl

@[simp] theorem draw8_autoJoyBusy (s : State) :
    (draw8 s).2.autoJoyBusy = s.autoJoyBusy := rfl

@[simp] theorem draw8_joy (s : State) :
    (draw8 s).2.joy = s.joy := rfl

@[simp] theorem draw8_joyInput (s : State) :
    (draw8 s).2.joyInput = s.joyInput := rfl

@[simp] theorem draw8_wrio (s : State) :
    (draw8 s).2.wrio = s.wrio := rfl

@[simp] theorem draw8_latchH (s : State) :
    (draw8 s).2.latchH = s.latchH := rfl

@[simp] theorem draw8_latchV (s : State) :
    (draw8 s).2.latchV = s.latchV := rfl

@[simp] theorem draw8_latchFlag (s : State) :
    (draw8 s).2.latchFlag = s.latchFlag := rfl

@[simp] theorem draw8_ophctFF (s : State) :
    (draw8 s).2.ophctFF = s.ophctFF := rfl

@[simp] theorem draw8_opvctFF (s : State) :
    (draw8 s).2.opvctFF = s.opvctFF := rfl

@[simp] theorem draw8_frameCounter (s : State) :
    (draw8 s).2.frameCounter = s.frameCounter := rfl

@[simp] theorem draw8_frameDone (s : State) :
    (draw8 s).2.frameDone = s.frameDone := rfl

@[simp] theorem draw8_paused (s : State) :
    (draw8 s).2.paused = s.paused := rfl

@[simp] theorem draw8_cfg (s : State) :
    (draw8 s).2.cfg = s.cfg := rfl

@[simp] theorem draw8_regions (s : State) :
    (draw8 s).2.regions = s.regions := rfl

@[simp] theorem draw8_mem (s : State) :
    (draw8 s).2.mem = s.mem := rfl

@[simp] theorem draw8_routerState (s : State) :
    (draw8 s).2.routerState = s.routerState := rfl

@[simp] theorem draw8_cpuScript (s : State) :
    (draw8 s).2.cpuScript = s.cpuScript := rfl

@[simp] theorem draw8_cpuEngine (s : State) :
    (draw8 s).2.cpuEngine = s.cpuEngine := rfl

@[simp] theorem draw8_port (s : State) :
    (draw8 s).2.port = s.port := rfl

@[simp] theorem draw8_inbox (s : State) :
    (draw8 s).2.inbox = s.inbox := rfl

@[simp] theorem draw8_draws (s : State) :
    (draw8 s).2.draws = s.draws + 1 := rfl

@[simp] theorem draw8_current (s : State) :
    (draw8 s).2.current = s.current := rfl

@[simp] theorem draw8_cpuByte (s : State) :
    (draw8 s).2.cpuByte = s.cpuByte := rfl

@[simp] theorem draw8_reply (s : State) :
    (draw8 s).2.reply = s.reply := rfl

@[simp] theorem draw8_outputs (s : State) :
    (draw8 s).2.outputs = s.outputs := rfl

/-! ### draw7 -/

@[simp] theorem draw7_committed (s : State) :
    (draw7 s).2.committed = s.committed := rfl

@[simp] theorem draw7_ahead (s : State) :
    (draw7 s).2.ahead = s.ahead := rfl

@[simp] theorem draw7_seqCounter (s : State) :
    (draw7 s).2.seqCounter = s.seqCounter := rfl

@[simp] theorem draw7_events (s : State) :
    (draw7 s).2.events = s.events := rfl

@[simp] theorem draw7_openBus (s : State) :
    (draw7 s).2.openBus = s.openBus := rfl

@[simp] theorem draw7_cpuState (s : State) :
    (draw7 s).2.cpuState = s.cpuState := rfl

@[simp] theorem draw7_gdmaActive (s : State) :
    (draw7 s).2.gdmaActive = s.gdmaActive := rfl

@[simp] theorem draw7_stallActive (s : State) :
    (draw7 s).2.stallActive = s.stallActive := rfl

@[simp] theorem draw7_stallUntil (s : State) :
    (draw7 s).2.stallUntil = s.stallUntil := rfl

@[simp] theorem draw7_memsel (s : State) :
    (draw7 s).2.memsel = s.memsel := rfl

@[simp] theorem draw7_fault (s : State) :
    (draw7 s).2.fault = s.fault := rfl

@[simp] theorem draw7_channels (s : State) :
    (draw7 s).2.channels = s.channels := rfl

@[simp] theorem draw7_mdmaen (s : State) :
    (draw7 s).2.mdmaen = s.mdmaen := rfl

@[simp] theorem draw7_hdmaen (s : State) :
    (draw7 s).2.hdmaen = s.hdmaen := rfl

@[simp] theorem draw7_gdmaPhase (s : State) :
    (draw7 s).2.gdmaPhase = s.gdmaPhase := rfl

@[simp] theorem draw7_gdmaChannel (s : State) :
    (draw7 s).2.gdmaChannel = s.gdmaChannel := rfl

@[simp] theorem draw7_gdmaIndex (s : State) :
    (draw7 s).2.gdmaIndex = s.gdmaIndex := rfl

@[simp] theorem draw7_dot (s : State) :
    (draw7 s).2.dot = s.dot := rfl

@[simp] theorem draw7_scanline (s : State) :
    (draw7 s).2.scanline = s.scanline := rfl

@[simp] theorem draw7_hblank (s : State) :
    (draw7 s).2.hblank = s.hblank := rfl

@[simp] theorem draw7_vblank (s : State) :
    (draw7 s).2.vblank = s.vblank := rfl

@[simp] theorem draw7_field (s : State) :
    (draw7 s).2.field = s.field := rfl

@[simp] theorem draw7_nmitimen (s : State) :
    (draw7 s).2.nmitimen = s.nmitimen := rfl

@[simp] theorem draw7_htime (s : State) :
    (draw7 s).2.htime = s.htime := rfl

@[simp] theorem draw7_vtime (s : State) :
    (draw7 s).2.vtime = s.vtime := rfl

@[simp] theorem draw7_nmiFlag (s : State) :
    (draw7 s).2.nmiFlag = s.nmiFlag := rfl

@[simp] theorem draw7_nmiPrev (s : State) :
    (draw7 s).2.nmiPrev = s.nmiPrev := rfl

@[simp] theorem draw7_nmiRequest (s : State) :
    (draw7 s).2.nmiRequest = s.nmiRequest := rfl

@[simp] theorem draw7_irqFlag (s : State) :
    (draw7 s).2.irqFlag = s.irqFlag := rfl

@[simp] theorem draw7_autoJoyBusy (s : State) :
    (draw7 s).2.autoJoyBusy = s.autoJoyBusy := rfl

@[simp] theorem draw7_joy (s : State) :
    (draw7 s).2.joy = s.joy := rfl

@[simp] theorem draw7_joyInput (s : State) :
    (draw7 s).2.joyInput = s.joyInput := rfl

@[simp] theorem draw7_wrio (s : State) :
    (draw7 s).2.wrio = s.wrio := rfl

@[simp] theorem draw7_latchH (s : State) :
    (draw7 s).2.latchH = s.latchH := rfl

@[simp] theorem draw7_latchV (s : State) :
    (draw7 s).2.latchV = s.latchV := rfl

@[simp] theorem draw7_latchFlag (s : State) :
    (draw7 s).2.latchFlag = s.latchFlag := rfl

@[simp] theorem draw7_ophctFF (s : State) :
    (draw7 s).2.ophctFF = s.ophctFF := rfl

@[simp] theorem draw7_opvctFF (s : State) :
    (draw7 s).2.opvctFF = s.opvctFF := rfl

@[simp] theorem draw7_frameCounter (s : State) :
    (draw7 s).2.frameCounter = s.frameCounter := rfl

@[simp] theorem draw7_frameDone (s : State) :
    (draw7 s).2.frameDone = s.frameDone := rfl

@[simp] theorem draw7_paused (s : State) :
    (draw7 s).2.paused = s.paused := rfl

@[simp] theorem draw7_cfg (s : State) :
    (draw7 s).2.cfg = s.cfg := rfl

@[simp] theorem draw7_regions (s : State) :
    (draw7 s).2.regions = s.regions := rfl

@[simp] theorem draw7_mem (s : State) :
    (draw7 s).2.mem = s.mem := rfl

@[simp] theorem draw7_routerState (s : State) :
    (draw7 s).2.routerState = s.routerState := rfl

@[simp] theorem draw7_cpuScript (s : State) :
    (draw7 s).2.cpuScript = s.cpuScript := rfl

@[simp] theorem draw7_cpuEngine (s : State) :
    (draw7 s).2.cpuEngine = s.cpuEngine := rfl

@[simp] theorem draw7_port (s : State) :
    (draw7 s).2.port = s.port := rfl

@[simp] theorem draw7_inbox (s : State) :
    (draw7 s).2.inbox = s.inbox := rfl

@[simp] theorem draw7_draws (s : State) :
    (draw7 s).2.draws = s.draws + 1 := rfl

@[simp] theorem draw7_current (s : State) :
    (draw7 s).2.current = s.current := rfl

@[simp] theorem draw7_cpuByte (s : State) :
    (draw7 s).2.cpuByte = s.cpuByte := rfl

@[simp] theorem draw7_reply (s : State) :
    (draw7 s).2.reply = s.reply := rfl

@[simp] theorem draw7_outputs (s : State) :
    (draw7 s).2.outputs = s.outputs := rfl

/-! ### draw1 -/

@[simp] theorem draw1_committed (s : State) :
    (draw1 s).2.committed = s.committed := rfl

@[simp] theorem draw1_ahead (s : State) :
    (draw1 s).2.ahead = s.ahead := rfl

@[simp] theorem draw1_seqCounter (s : State) :
    (draw1 s).2.seqCounter = s.seqCounter := rfl

@[simp] theorem draw1_events (s : State) :
    (draw1 s).2.events = s.events := rfl

@[simp] theorem draw1_openBus (s : State) :
    (draw1 s).2.openBus = s.openBus := rfl

@[simp] theorem draw1_cpuState (s : State) :
    (draw1 s).2.cpuState = s.cpuState := rfl

@[simp] theorem draw1_gdmaActive (s : State) :
    (draw1 s).2.gdmaActive = s.gdmaActive := rfl

@[simp] theorem draw1_stallActive (s : State) :
    (draw1 s).2.stallActive = s.stallActive := rfl

@[simp] theorem draw1_stallUntil (s : State) :
    (draw1 s).2.stallUntil = s.stallUntil := rfl

@[simp] theorem draw1_memsel (s : State) :
    (draw1 s).2.memsel = s.memsel := rfl

@[simp] theorem draw1_fault (s : State) :
    (draw1 s).2.fault = s.fault := rfl

@[simp] theorem draw1_channels (s : State) :
    (draw1 s).2.channels = s.channels := rfl

@[simp] theorem draw1_mdmaen (s : State) :
    (draw1 s).2.mdmaen = s.mdmaen := rfl

@[simp] theorem draw1_hdmaen (s : State) :
    (draw1 s).2.hdmaen = s.hdmaen := rfl

@[simp] theorem draw1_gdmaPhase (s : State) :
    (draw1 s).2.gdmaPhase = s.gdmaPhase := rfl

@[simp] theorem draw1_gdmaChannel (s : State) :
    (draw1 s).2.gdmaChannel = s.gdmaChannel := rfl

@[simp] theorem draw1_gdmaIndex (s : State) :
    (draw1 s).2.gdmaIndex = s.gdmaIndex := rfl

@[simp] theorem draw1_dot (s : State) :
    (draw1 s).2.dot = s.dot := rfl

@[simp] theorem draw1_scanline (s : State) :
    (draw1 s).2.scanline = s.scanline := rfl

@[simp] theorem draw1_hblank (s : State) :
    (draw1 s).2.hblank = s.hblank := rfl

@[simp] theorem draw1_vblank (s : State) :
    (draw1 s).2.vblank = s.vblank := rfl

@[simp] theorem draw1_field (s : State) :
    (draw1 s).2.field = s.field := rfl

@[simp] theorem draw1_nmitimen (s : State) :
    (draw1 s).2.nmitimen = s.nmitimen := rfl

@[simp] theorem draw1_htime (s : State) :
    (draw1 s).2.htime = s.htime := rfl

@[simp] theorem draw1_vtime (s : State) :
    (draw1 s).2.vtime = s.vtime := rfl

@[simp] theorem draw1_nmiFlag (s : State) :
    (draw1 s).2.nmiFlag = s.nmiFlag := rfl

@[simp] theorem draw1_nmiPrev (s : State) :
    (draw1 s).2.nmiPrev = s.nmiPrev := rfl

@[simp] theorem draw1_nmiRequest (s : State) :
    (draw1 s).2.nmiRequest = s.nmiRequest := rfl

@[simp] theorem draw1_irqFlag (s : State) :
    (draw1 s).2.irqFlag = s.irqFlag := rfl

@[simp] theorem draw1_autoJoyBusy (s : State) :
    (draw1 s).2.autoJoyBusy = s.autoJoyBusy := rfl

@[simp] theorem draw1_joy (s : State) :
    (draw1 s).2.joy = s.joy := rfl

@[simp] theorem draw1_joyInput (s : State) :
    (draw1 s).2.joyInput = s.joyInput := rfl

@[simp] theorem draw1_wrio (s : State) :
    (draw1 s).2.wrio = s.wrio := rfl

@[simp] theorem draw1_latchH (s : State) :
    (draw1 s).2.latchH = s.latchH := rfl

@[simp] theorem draw1_latchV (s : State) :
    (draw1 s).2.latchV = s.latchV := rfl

@[simp] theorem draw1_latchFlag (s : State) :
    (draw1 s).2.latchFlag = s.latchFlag := rfl

@[simp] theorem draw1_ophctFF (s : State) :
    (draw1 s).2.ophctFF = s.ophctFF := rfl

@[simp] theorem draw1_opvctFF (s : State) :
    (draw1 s).2.opvctFF = s.opvctFF := rfl

@[simp] theorem draw1_frameCounter (s : State) :
    (draw1 s).2.frameCounter = s.frameCounter := rfl

@[simp] theorem draw1_frameDone (s : State) :
    (draw1 s).2.frameDone = s.frameDone := rfl

@[simp] theorem draw1_paused (s : State) :
    (draw1 s).2.paused = s.paused := rfl

@[simp] theorem draw1_cfg (s : State) :
    (draw1 s).2.cfg = s.cfg := rfl

@[simp] theorem draw1_regions (s : State) :
    (draw1 s).2.regions = s.regions := rfl

@[simp] theorem draw1_mem (s : State) :
    (draw1 s).2.mem = s.mem := rfl

@[simp] theorem draw1_routerState (s : State) :
    (draw1 s).2.routerState = s.routerState := rfl

@[simp] theorem draw1_cpuScript (s : State) :
    (draw1 s).2.cpuScript = s.cpuScript := rfl

@[simp] theorem draw1_cpuEngine (s : State) :
    (draw1 s).2.cpuEngine = s.cpuEngine := rfl

@[simp] theorem draw1_port (s : State) :
    (draw1 s).2.port = s.port := rfl

@[simp] theorem draw1_inbox (s : State) :
    (draw1 s).2.inbox = s.inbox := rfl

@[simp] theorem draw1_draws (s : State) :
    (draw1 s).2.draws = s.draws + 1 := rfl

@[simp] theorem draw1_current (s : State) :
    (draw1 s).2.current = s.current := rfl

@[simp] theorem draw1_cpuByte (s : State) :
    (draw1 s).2.cpuByte = s.cpuByte := rfl

@[simp] theorem draw1_reply (s : State) :
    (draw1 s).2.reply = s.reply := rfl

@[simp] theorem draw1_outputs (s : State) :
    (draw1 s).2.outputs = s.outputs := rfl

/-! ### setChannel -/

@[simp] theorem setChannel_committed (c : Chan) (ch : Channel) (s : State) :
    (setChannel c ch s).committed = s.committed := rfl

@[simp] theorem setChannel_ahead (c : Chan) (ch : Channel) (s : State) :
    (setChannel c ch s).ahead = s.ahead := rfl

@[simp] theorem setChannel_seqCounter (c : Chan) (ch : Channel) (s : State) :
    (setChannel c ch s).seqCounter = s.seqCounter := rfl

@[simp] theorem setChannel_events (c : Chan) (ch : Channel) (s : State) :
    (setChannel c ch s).events = s.events := rfl

@[simp] theorem setChannel_openBus (c : Chan) (ch : Channel) (s : State) :
    (setChannel c ch s).openBus = s.openBus := rfl

@[simp] theorem setChannel_cpuState (c : Chan) (ch : Channel) (s : State) :
    (setChannel c ch s).cpuState = s.cpuState := rfl

@[simp] theorem setChannel_gdmaActive (c : Chan) (ch : Channel) (s : State) :
    (setChannel c ch s).gdmaActive = s.gdmaActive := rfl

@[simp] theorem setChannel_stallActive (c : Chan) (ch : Channel) (s : State) :
    (setChannel c ch s).stallActive = s.stallActive := rfl

@[simp] theorem setChannel_stallUntil (c : Chan) (ch : Channel) (s : State) :
    (setChannel c ch s).stallUntil = s.stallUntil := rfl

@[simp] theorem setChannel_memsel (c : Chan) (ch : Channel) (s : State) :
    (setChannel c ch s).memsel = s.memsel := rfl

@[simp] theorem setChannel_fault (c : Chan) (ch : Channel) (s : State) :
    (setChannel c ch s).fault = s.fault := rfl

@[simp] theorem setChannel_channels (c : Chan) (ch : Channel) (s : State) :
    (setChannel c ch s).channels = s.channels.set c.val ch c.isLt := rfl

@[simp] theorem setChannel_mdmaen (c : Chan) (ch : Channel) (s : State) :
    (setChannel c ch s).mdmaen = s.mdmaen := rfl

@[simp] theorem setChannel_hdmaen (c : Chan) (ch : Channel) (s : State) :
    (setChannel c ch s).hdmaen = s.hdmaen := rfl

@[simp] theorem setChannel_gdmaPhase (c : Chan) (ch : Channel) (s : State) :
    (setChannel c ch s).gdmaPhase = s.gdmaPhase := rfl

@[simp] theorem setChannel_gdmaChannel (c : Chan) (ch : Channel) (s : State) :
    (setChannel c ch s).gdmaChannel = s.gdmaChannel := rfl

@[simp] theorem setChannel_gdmaIndex (c : Chan) (ch : Channel) (s : State) :
    (setChannel c ch s).gdmaIndex = s.gdmaIndex := rfl

@[simp] theorem setChannel_dot (c : Chan) (ch : Channel) (s : State) :
    (setChannel c ch s).dot = s.dot := rfl

@[simp] theorem setChannel_scanline (c : Chan) (ch : Channel) (s : State) :
    (setChannel c ch s).scanline = s.scanline := rfl

@[simp] theorem setChannel_hblank (c : Chan) (ch : Channel) (s : State) :
    (setChannel c ch s).hblank = s.hblank := rfl

@[simp] theorem setChannel_vblank (c : Chan) (ch : Channel) (s : State) :
    (setChannel c ch s).vblank = s.vblank := rfl

@[simp] theorem setChannel_field (c : Chan) (ch : Channel) (s : State) :
    (setChannel c ch s).field = s.field := rfl

@[simp] theorem setChannel_nmitimen (c : Chan) (ch : Channel) (s : State) :
    (setChannel c ch s).nmitimen = s.nmitimen := rfl

@[simp] theorem setChannel_htime (c : Chan) (ch : Channel) (s : State) :
    (setChannel c ch s).htime = s.htime := rfl

@[simp] theorem setChannel_vtime (c : Chan) (ch : Channel) (s : State) :
    (setChannel c ch s).vtime = s.vtime := rfl

@[simp] theorem setChannel_nmiFlag (c : Chan) (ch : Channel) (s : State) :
    (setChannel c ch s).nmiFlag = s.nmiFlag := rfl

@[simp] theorem setChannel_nmiPrev (c : Chan) (ch : Channel) (s : State) :
    (setChannel c ch s).nmiPrev = s.nmiPrev := rfl

@[simp] theorem setChannel_nmiRequest (c : Chan) (ch : Channel) (s : State) :
    (setChannel c ch s).nmiRequest = s.nmiRequest := rfl

@[simp] theorem setChannel_irqFlag (c : Chan) (ch : Channel) (s : State) :
    (setChannel c ch s).irqFlag = s.irqFlag := rfl

@[simp] theorem setChannel_autoJoyBusy (c : Chan) (ch : Channel) (s : State) :
    (setChannel c ch s).autoJoyBusy = s.autoJoyBusy := rfl

@[simp] theorem setChannel_joy (c : Chan) (ch : Channel) (s : State) :
    (setChannel c ch s).joy = s.joy := rfl

@[simp] theorem setChannel_joyInput (c : Chan) (ch : Channel) (s : State) :
    (setChannel c ch s).joyInput = s.joyInput := rfl

@[simp] theorem setChannel_wrio (c : Chan) (ch : Channel) (s : State) :
    (setChannel c ch s).wrio = s.wrio := rfl

@[simp] theorem setChannel_latchH (c : Chan) (ch : Channel) (s : State) :
    (setChannel c ch s).latchH = s.latchH := rfl

@[simp] theorem setChannel_latchV (c : Chan) (ch : Channel) (s : State) :
    (setChannel c ch s).latchV = s.latchV := rfl

@[simp] theorem setChannel_latchFlag (c : Chan) (ch : Channel) (s : State) :
    (setChannel c ch s).latchFlag = s.latchFlag := rfl

@[simp] theorem setChannel_ophctFF (c : Chan) (ch : Channel) (s : State) :
    (setChannel c ch s).ophctFF = s.ophctFF := rfl

@[simp] theorem setChannel_opvctFF (c : Chan) (ch : Channel) (s : State) :
    (setChannel c ch s).opvctFF = s.opvctFF := rfl

@[simp] theorem setChannel_frameCounter (c : Chan) (ch : Channel) (s : State) :
    (setChannel c ch s).frameCounter = s.frameCounter := rfl

@[simp] theorem setChannel_frameDone (c : Chan) (ch : Channel) (s : State) :
    (setChannel c ch s).frameDone = s.frameDone := rfl

@[simp] theorem setChannel_paused (c : Chan) (ch : Channel) (s : State) :
    (setChannel c ch s).paused = s.paused := rfl

@[simp] theorem setChannel_cfg (c : Chan) (ch : Channel) (s : State) :
    (setChannel c ch s).cfg = s.cfg := rfl

@[simp] theorem setChannel_regions (c : Chan) (ch : Channel) (s : State) :
    (setChannel c ch s).regions = s.regions := rfl

@[simp] theorem setChannel_mem (c : Chan) (ch : Channel) (s : State) :
    (setChannel c ch s).mem = s.mem := rfl

@[simp] theorem setChannel_routerState (c : Chan) (ch : Channel) (s : State) :
    (setChannel c ch s).routerState = s.routerState := rfl

@[simp] theorem setChannel_cpuScript (c : Chan) (ch : Channel) (s : State) :
    (setChannel c ch s).cpuScript = s.cpuScript := rfl

@[simp] theorem setChannel_cpuEngine (c : Chan) (ch : Channel) (s : State) :
    (setChannel c ch s).cpuEngine = s.cpuEngine := rfl

@[simp] theorem setChannel_port (c : Chan) (ch : Channel) (s : State) :
    (setChannel c ch s).port = s.port := rfl

@[simp] theorem setChannel_inbox (c : Chan) (ch : Channel) (s : State) :
    (setChannel c ch s).inbox = s.inbox := rfl

@[simp] theorem setChannel_draws (c : Chan) (ch : Channel) (s : State) :
    (setChannel c ch s).draws = s.draws := rfl

@[simp] theorem setChannel_current (c : Chan) (ch : Channel) (s : State) :
    (setChannel c ch s).current = s.current := rfl

@[simp] theorem setChannel_cpuByte (c : Chan) (ch : Channel) (s : State) :
    (setChannel c ch s).cpuByte = s.cpuByte := rfl

@[simp] theorem setChannel_reply (c : Chan) (ch : Channel) (s : State) :
    (setChannel c ch s).reply = s.reply := rfl

@[simp] theorem setChannel_outputs (c : Chan) (ch : Channel) (s : State) :
    (setChannel c ch s).outputs = s.outputs := rfl

/-! ### scheduleAt -/

@[simp] theorem scheduleAt_committed (e : EventId) (t : Nat) (s : State) :
    (scheduleAt e t s).committed = s.committed := rfl

@[simp] theorem scheduleAt_ahead (e : EventId) (t : Nat) (s : State) :
    (scheduleAt e t s).ahead = s.ahead := rfl

@[simp] theorem scheduleAt_seqCounter (e : EventId) (t : Nat) (s : State) :
    (scheduleAt e t s).seqCounter = s.seqCounter + 1 := rfl

@[simp] theorem scheduleAt_events (e : EventId) (t : Nat) (s : State) :
    (scheduleAt e t s).events = setEvent s.events e { when := t, seq := s.seqCounter, queued := true } := rfl

@[simp] theorem scheduleAt_openBus (e : EventId) (t : Nat) (s : State) :
    (scheduleAt e t s).openBus = s.openBus := rfl

@[simp] theorem scheduleAt_cpuState (e : EventId) (t : Nat) (s : State) :
    (scheduleAt e t s).cpuState = s.cpuState := rfl

@[simp] theorem scheduleAt_gdmaActive (e : EventId) (t : Nat) (s : State) :
    (scheduleAt e t s).gdmaActive = s.gdmaActive := rfl

@[simp] theorem scheduleAt_stallActive (e : EventId) (t : Nat) (s : State) :
    (scheduleAt e t s).stallActive = s.stallActive := rfl

@[simp] theorem scheduleAt_stallUntil (e : EventId) (t : Nat) (s : State) :
    (scheduleAt e t s).stallUntil = s.stallUntil := rfl

@[simp] theorem scheduleAt_memsel (e : EventId) (t : Nat) (s : State) :
    (scheduleAt e t s).memsel = s.memsel := rfl

@[simp] theorem scheduleAt_fault (e : EventId) (t : Nat) (s : State) :
    (scheduleAt e t s).fault = s.fault := rfl

@[simp] theorem scheduleAt_channels (e : EventId) (t : Nat) (s : State) :
    (scheduleAt e t s).channels = s.channels := rfl

@[simp] theorem scheduleAt_mdmaen (e : EventId) (t : Nat) (s : State) :
    (scheduleAt e t s).mdmaen = s.mdmaen := rfl

@[simp] theorem scheduleAt_hdmaen (e : EventId) (t : Nat) (s : State) :
    (scheduleAt e t s).hdmaen = s.hdmaen := rfl

@[simp] theorem scheduleAt_gdmaPhase (e : EventId) (t : Nat) (s : State) :
    (scheduleAt e t s).gdmaPhase = s.gdmaPhase := rfl

@[simp] theorem scheduleAt_gdmaChannel (e : EventId) (t : Nat) (s : State) :
    (scheduleAt e t s).gdmaChannel = s.gdmaChannel := rfl

@[simp] theorem scheduleAt_gdmaIndex (e : EventId) (t : Nat) (s : State) :
    (scheduleAt e t s).gdmaIndex = s.gdmaIndex := rfl

@[simp] theorem scheduleAt_dot (e : EventId) (t : Nat) (s : State) :
    (scheduleAt e t s).dot = s.dot := rfl

@[simp] theorem scheduleAt_scanline (e : EventId) (t : Nat) (s : State) :
    (scheduleAt e t s).scanline = s.scanline := rfl

@[simp] theorem scheduleAt_hblank (e : EventId) (t : Nat) (s : State) :
    (scheduleAt e t s).hblank = s.hblank := rfl

@[simp] theorem scheduleAt_vblank (e : EventId) (t : Nat) (s : State) :
    (scheduleAt e t s).vblank = s.vblank := rfl

@[simp] theorem scheduleAt_field (e : EventId) (t : Nat) (s : State) :
    (scheduleAt e t s).field = s.field := rfl

@[simp] theorem scheduleAt_nmitimen (e : EventId) (t : Nat) (s : State) :
    (scheduleAt e t s).nmitimen = s.nmitimen := rfl

@[simp] theorem scheduleAt_htime (e : EventId) (t : Nat) (s : State) :
    (scheduleAt e t s).htime = s.htime := rfl

@[simp] theorem scheduleAt_vtime (e : EventId) (t : Nat) (s : State) :
    (scheduleAt e t s).vtime = s.vtime := rfl

@[simp] theorem scheduleAt_nmiFlag (e : EventId) (t : Nat) (s : State) :
    (scheduleAt e t s).nmiFlag = s.nmiFlag := rfl

@[simp] theorem scheduleAt_nmiPrev (e : EventId) (t : Nat) (s : State) :
    (scheduleAt e t s).nmiPrev = s.nmiPrev := rfl

@[simp] theorem scheduleAt_nmiRequest (e : EventId) (t : Nat) (s : State) :
    (scheduleAt e t s).nmiRequest = s.nmiRequest := rfl

@[simp] theorem scheduleAt_irqFlag (e : EventId) (t : Nat) (s : State) :
    (scheduleAt e t s).irqFlag = s.irqFlag := rfl

@[simp] theorem scheduleAt_autoJoyBusy (e : EventId) (t : Nat) (s : State) :
    (scheduleAt e t s).autoJoyBusy = s.autoJoyBusy := rfl

@[simp] theorem scheduleAt_joy (e : EventId) (t : Nat) (s : State) :
    (scheduleAt e t s).joy = s.joy := rfl

@[simp] theorem scheduleAt_joyInput (e : EventId) (t : Nat) (s : State) :
    (scheduleAt e t s).joyInput = s.joyInput := rfl

@[simp] theorem scheduleAt_wrio (e : EventId) (t : Nat) (s : State) :
    (scheduleAt e t s).wrio = s.wrio := rfl

@[simp] theorem scheduleAt_latchH (e : EventId) (t : Nat) (s : State) :
    (scheduleAt e t s).latchH = s.latchH := rfl

@[simp] theorem scheduleAt_latchV (e : EventId) (t : Nat) (s : State) :
    (scheduleAt e t s).latchV = s.latchV := rfl

@[simp] theorem scheduleAt_latchFlag (e : EventId) (t : Nat) (s : State) :
    (scheduleAt e t s).latchFlag = s.latchFlag := rfl

@[simp] theorem scheduleAt_ophctFF (e : EventId) (t : Nat) (s : State) :
    (scheduleAt e t s).ophctFF = s.ophctFF := rfl

@[simp] theorem scheduleAt_opvctFF (e : EventId) (t : Nat) (s : State) :
    (scheduleAt e t s).opvctFF = s.opvctFF := rfl

@[simp] theorem scheduleAt_frameCounter (e : EventId) (t : Nat) (s : State) :
    (scheduleAt e t s).frameCounter = s.frameCounter := rfl

@[simp] theorem scheduleAt_frameDone (e : EventId) (t : Nat) (s : State) :
    (scheduleAt e t s).frameDone = s.frameDone := rfl

@[simp] theorem scheduleAt_paused (e : EventId) (t : Nat) (s : State) :
    (scheduleAt e t s).paused = s.paused := rfl

@[simp] theorem scheduleAt_cfg (e : EventId) (t : Nat) (s : State) :
    (scheduleAt e t s).cfg = s.cfg := rfl

@[simp] theorem scheduleAt_regions (e : EventId) (t : Nat) (s : State) :
    (scheduleAt e t s).regions = s.regions := rfl

@[simp] theorem scheduleAt_mem (e : EventId) (t : Nat) (s : State) :
    (scheduleAt e t s).mem = s.mem := rfl

@[simp] theorem scheduleAt_routerState (e : EventId) (t : Nat) (s : State) :
    (scheduleAt e t s).routerState = s.routerState := rfl

@[simp] theorem scheduleAt_cpuScript (e : EventId) (t : Nat) (s : State) :
    (scheduleAt e t s).cpuScript = s.cpuScript := rfl

@[simp] theorem scheduleAt_cpuEngine (e : EventId) (t : Nat) (s : State) :
    (scheduleAt e t s).cpuEngine = s.cpuEngine := rfl

@[simp] theorem scheduleAt_port (e : EventId) (t : Nat) (s : State) :
    (scheduleAt e t s).port = s.port := rfl

@[simp] theorem scheduleAt_inbox (e : EventId) (t : Nat) (s : State) :
    (scheduleAt e t s).inbox = s.inbox := rfl

@[simp] theorem scheduleAt_draws (e : EventId) (t : Nat) (s : State) :
    (scheduleAt e t s).draws = s.draws := rfl

@[simp] theorem scheduleAt_current (e : EventId) (t : Nat) (s : State) :
    (scheduleAt e t s).current = s.current := rfl

@[simp] theorem scheduleAt_cpuByte (e : EventId) (t : Nat) (s : State) :
    (scheduleAt e t s).cpuByte = s.cpuByte := rfl

@[simp] theorem scheduleAt_reply (e : EventId) (t : Nat) (s : State) :
    (scheduleAt e t s).reply = s.reply := rfl

@[simp] theorem scheduleAt_outputs (e : EventId) (t : Nat) (s : State) :
    (scheduleAt e t s).outputs = s.outputs := rfl

/-! ### deschedule -/

@[simp] theorem deschedule_committed (e : EventId) (s : State) :
    (deschedule e s).committed = s.committed := rfl

@[simp] theorem deschedule_ahead (e : EventId) (s : State) :
    (deschedule e s).ahead = s.ahead := rfl

@[simp] theorem deschedule_seqCounter (e : EventId) (s : State) :
    (deschedule e s).seqCounter = s.seqCounter := rfl

@[simp] theorem deschedule_events (e : EventId) (s : State) :
    (deschedule e s).events = setEvent s.events e { event s e with queued := false } := rfl

@[simp] theorem deschedule_openBus (e : EventId) (s : State) :
    (deschedule e s).openBus = s.openBus := rfl

@[simp] theorem deschedule_cpuState (e : EventId) (s : State) :
    (deschedule e s).cpuState = s.cpuState := rfl

@[simp] theorem deschedule_gdmaActive (e : EventId) (s : State) :
    (deschedule e s).gdmaActive = s.gdmaActive := rfl

@[simp] theorem deschedule_stallActive (e : EventId) (s : State) :
    (deschedule e s).stallActive = s.stallActive := rfl

@[simp] theorem deschedule_stallUntil (e : EventId) (s : State) :
    (deschedule e s).stallUntil = s.stallUntil := rfl

@[simp] theorem deschedule_memsel (e : EventId) (s : State) :
    (deschedule e s).memsel = s.memsel := rfl

@[simp] theorem deschedule_fault (e : EventId) (s : State) :
    (deschedule e s).fault = s.fault := rfl

@[simp] theorem deschedule_channels (e : EventId) (s : State) :
    (deschedule e s).channels = s.channels := rfl

@[simp] theorem deschedule_mdmaen (e : EventId) (s : State) :
    (deschedule e s).mdmaen = s.mdmaen := rfl

@[simp] theorem deschedule_hdmaen (e : EventId) (s : State) :
    (deschedule e s).hdmaen = s.hdmaen := rfl

@[simp] theorem deschedule_gdmaPhase (e : EventId) (s : State) :
    (deschedule e s).gdmaPhase = s.gdmaPhase := rfl

@[simp] theorem deschedule_gdmaChannel (e : EventId) (s : State) :
    (deschedule e s).gdmaChannel = s.gdmaChannel := rfl

@[simp] theorem deschedule_gdmaIndex (e : EventId) (s : State) :
    (deschedule e s).gdmaIndex = s.gdmaIndex := rfl

@[simp] theorem deschedule_dot (e : EventId) (s : State) :
    (deschedule e s).dot = s.dot := rfl

@[simp] theorem deschedule_scanline (e : EventId) (s : State) :
    (deschedule e s).scanline = s.scanline := rfl

@[simp] theorem deschedule_hblank (e : EventId) (s : State) :
    (deschedule e s).hblank = s.hblank := rfl

@[simp] theorem deschedule_vblank (e : EventId) (s : State) :
    (deschedule e s).vblank = s.vblank := rfl

@[simp] theorem deschedule_field (e : EventId) (s : State) :
    (deschedule e s).field = s.field := rfl

@[simp] theorem deschedule_nmitimen (e : EventId) (s : State) :
    (deschedule e s).nmitimen = s.nmitimen := rfl

@[simp] theorem deschedule_htime (e : EventId) (s : State) :
    (deschedule e s).htime = s.htime := rfl

@[simp] theorem deschedule_vtime (e : EventId) (s : State) :
    (deschedule e s).vtime = s.vtime := rfl

@[simp] theorem deschedule_nmiFlag (e : EventId) (s : State) :
    (deschedule e s).nmiFlag = s.nmiFlag := rfl

@[simp] theorem deschedule_nmiPrev (e : EventId) (s : State) :
    (deschedule e s).nmiPrev = s.nmiPrev := rfl

@[simp] theorem deschedule_nmiRequest (e : EventId) (s : State) :
    (deschedule e s).nmiRequest = s.nmiRequest := rfl

@[simp] theorem deschedule_irqFlag (e : EventId) (s : State) :
    (deschedule e s).irqFlag = s.irqFlag := rfl

@[simp] theorem deschedule_autoJoyBusy (e : EventId) (s : State) :
    (deschedule e s).autoJoyBusy = s.autoJoyBusy := rfl

@[simp] theorem deschedule_joy (e : EventId) (s : State) :
    (deschedule e s).joy = s.joy := rfl

@[simp] theorem deschedule_joyInput (e : EventId) (s : State) :
    (deschedule e s).joyInput = s.joyInput := rfl

@[simp] theorem deschedule_wrio (e : EventId) (s : State) :
    (deschedule e s).wrio = s.wrio := rfl

@[simp] theorem deschedule_latchH (e : EventId) (s : State) :
    (deschedule e s).latchH = s.latchH := rfl

@[simp] theorem deschedule_latchV (e : EventId) (s : State) :
    (deschedule e s).latchV = s.latchV := rfl

@[simp] theorem deschedule_latchFlag (e : EventId) (s : State) :
    (deschedule e s).latchFlag = s.latchFlag := rfl

@[simp] theorem deschedule_ophctFF (e : EventId) (s : State) :
    (deschedule e s).ophctFF = s.ophctFF := rfl

@[simp] theorem deschedule_opvctFF (e : EventId) (s : State) :
    (deschedule e s).opvctFF = s.opvctFF := rfl

@[simp] theorem deschedule_frameCounter (e : EventId) (s : State) :
    (deschedule e s).frameCounter = s.frameCounter := rfl

@[simp] theorem deschedule_frameDone (e : EventId) (s : State) :
    (deschedule e s).frameDone = s.frameDone := rfl

@[simp] theorem deschedule_paused (e : EventId) (s : State) :
    (deschedule e s).paused = s.paused := rfl

@[simp] theorem deschedule_cfg (e : EventId) (s : State) :
    (deschedule e s).cfg = s.cfg := rfl

@[simp] theorem deschedule_regions (e : EventId) (s : State) :
    (deschedule e s).regions = s.regions := rfl

@[simp] theorem deschedule_mem (e : EventId) (s : State) :
    (deschedule e s).mem = s.mem := rfl

@[simp] theorem deschedule_routerState (e : EventId) (s : State) :
    (deschedule e s).routerState = s.routerState := rfl

@[simp] theorem deschedule_cpuScript (e : EventId) (s : State) :
    (deschedule e s).cpuScript = s.cpuScript := rfl

@[simp] theorem deschedule_cpuEngine (e : EventId) (s : State) :
    (deschedule e s).cpuEngine = s.cpuEngine := rfl

@[simp] theorem deschedule_port (e : EventId) (s : State) :
    (deschedule e s).port = s.port := rfl

@[simp] theorem deschedule_inbox (e : EventId) (s : State) :
    (deschedule e s).inbox = s.inbox := rfl

@[simp] theorem deschedule_draws (e : EventId) (s : State) :
    (deschedule e s).draws = s.draws := rfl

@[simp] theorem deschedule_current (e : EventId) (s : State) :
    (deschedule e s).current = s.current := rfl

@[simp] theorem deschedule_cpuByte (e : EventId) (s : State) :
    (deschedule e s).cpuByte = s.cpuByte := rfl

@[simp] theorem deschedule_reply (e : EventId) (s : State) :
    (deschedule e s).reply = s.reply := rfl

@[simp] theorem deschedule_outputs (e : EventId) (s : State) :
    (deschedule e s).outputs = s.outputs := rfl

/-! ### disableGdma -/

@[simp] theorem disableGdma_committed (c : Chan) (s : State) :
    (disableGdma c s).committed = s.committed := rfl

@[simp] theorem disableGdma_ahead (c : Chan) (s : State) :
    (disableGdma c s).ahead = s.ahead := rfl

@[simp] theorem disableGdma_seqCounter (c : Chan) (s : State) :
    (disableGdma c s).seqCounter = s.seqCounter := rfl

@[simp] theorem disableGdma_events (c : Chan) (s : State) :
    (disableGdma c s).events = s.events := rfl

@[simp] theorem disableGdma_openBus (c : Chan) (s : State) :
    (disableGdma c s).openBus = s.openBus := rfl

@[simp] theorem disableGdma_cpuState (c : Chan) (s : State) :
    (disableGdma c s).cpuState = s.cpuState := rfl

@[simp] theorem disableGdma_gdmaActive (c : Chan) (s : State) :
    (disableGdma c s).gdmaActive = s.gdmaActive := rfl

@[simp] theorem disableGdma_stallActive (c : Chan) (s : State) :
    (disableGdma c s).stallActive = s.stallActive := rfl

@[simp] theorem disableGdma_stallUntil (c : Chan) (s : State) :
    (disableGdma c s).stallUntil = s.stallUntil := rfl

@[simp] theorem disableGdma_memsel (c : Chan) (s : State) :
    (disableGdma c s).memsel = s.memsel := rfl

@[simp] theorem disableGdma_fault (c : Chan) (s : State) :
    (disableGdma c s).fault = s.fault := rfl

@[simp] theorem disableGdma_channels (c : Chan) (s : State) :
    (disableGdma c s).channels = s.channels := rfl

@[simp] theorem disableGdma_mdmaen (c : Chan) (s : State) :
    (disableGdma c s).mdmaen = s.mdmaen &&& ~~~(1#8 <<< c.val) := rfl

@[simp] theorem disableGdma_hdmaen (c : Chan) (s : State) :
    (disableGdma c s).hdmaen = s.hdmaen := rfl

@[simp] theorem disableGdma_gdmaPhase (c : Chan) (s : State) :
    (disableGdma c s).gdmaPhase = s.gdmaPhase := rfl

@[simp] theorem disableGdma_gdmaChannel (c : Chan) (s : State) :
    (disableGdma c s).gdmaChannel = s.gdmaChannel := rfl

@[simp] theorem disableGdma_gdmaIndex (c : Chan) (s : State) :
    (disableGdma c s).gdmaIndex = s.gdmaIndex := rfl

@[simp] theorem disableGdma_dot (c : Chan) (s : State) :
    (disableGdma c s).dot = s.dot := rfl

@[simp] theorem disableGdma_scanline (c : Chan) (s : State) :
    (disableGdma c s).scanline = s.scanline := rfl

@[simp] theorem disableGdma_hblank (c : Chan) (s : State) :
    (disableGdma c s).hblank = s.hblank := rfl

@[simp] theorem disableGdma_vblank (c : Chan) (s : State) :
    (disableGdma c s).vblank = s.vblank := rfl

@[simp] theorem disableGdma_field (c : Chan) (s : State) :
    (disableGdma c s).field = s.field := rfl

@[simp] theorem disableGdma_nmitimen (c : Chan) (s : State) :
    (disableGdma c s).nmitimen = s.nmitimen := rfl

@[simp] theorem disableGdma_htime (c : Chan) (s : State) :
    (disableGdma c s).htime = s.htime := rfl

@[simp] theorem disableGdma_vtime (c : Chan) (s : State) :
    (disableGdma c s).vtime = s.vtime := rfl

@[simp] theorem disableGdma_nmiFlag (c : Chan) (s : State) :
    (disableGdma c s).nmiFlag = s.nmiFlag := rfl

@[simp] theorem disableGdma_nmiPrev (c : Chan) (s : State) :
    (disableGdma c s).nmiPrev = s.nmiPrev := rfl

@[simp] theorem disableGdma_nmiRequest (c : Chan) (s : State) :
    (disableGdma c s).nmiRequest = s.nmiRequest := rfl

@[simp] theorem disableGdma_irqFlag (c : Chan) (s : State) :
    (disableGdma c s).irqFlag = s.irqFlag := rfl

@[simp] theorem disableGdma_autoJoyBusy (c : Chan) (s : State) :
    (disableGdma c s).autoJoyBusy = s.autoJoyBusy := rfl

@[simp] theorem disableGdma_joy (c : Chan) (s : State) :
    (disableGdma c s).joy = s.joy := rfl

@[simp] theorem disableGdma_joyInput (c : Chan) (s : State) :
    (disableGdma c s).joyInput = s.joyInput := rfl

@[simp] theorem disableGdma_wrio (c : Chan) (s : State) :
    (disableGdma c s).wrio = s.wrio := rfl

@[simp] theorem disableGdma_latchH (c : Chan) (s : State) :
    (disableGdma c s).latchH = s.latchH := rfl

@[simp] theorem disableGdma_latchV (c : Chan) (s : State) :
    (disableGdma c s).latchV = s.latchV := rfl

@[simp] theorem disableGdma_latchFlag (c : Chan) (s : State) :
    (disableGdma c s).latchFlag = s.latchFlag := rfl

@[simp] theorem disableGdma_ophctFF (c : Chan) (s : State) :
    (disableGdma c s).ophctFF = s.ophctFF := rfl

@[simp] theorem disableGdma_opvctFF (c : Chan) (s : State) :
    (disableGdma c s).opvctFF = s.opvctFF := rfl

@[simp] theorem disableGdma_frameCounter (c : Chan) (s : State) :
    (disableGdma c s).frameCounter = s.frameCounter := rfl

@[simp] theorem disableGdma_frameDone (c : Chan) (s : State) :
    (disableGdma c s).frameDone = s.frameDone := rfl

@[simp] theorem disableGdma_paused (c : Chan) (s : State) :
    (disableGdma c s).paused = s.paused := rfl

@[simp] theorem disableGdma_cfg (c : Chan) (s : State) :
    (disableGdma c s).cfg = s.cfg := rfl

@[simp] theorem disableGdma_regions (c : Chan) (s : State) :
    (disableGdma c s).regions = s.regions := rfl

@[simp] theorem disableGdma_mem (c : Chan) (s : State) :
    (disableGdma c s).mem = s.mem := rfl

@[simp] theorem disableGdma_routerState (c : Chan) (s : State) :
    (disableGdma c s).routerState = s.routerState := rfl

@[simp] theorem disableGdma_cpuScript (c : Chan) (s : State) :
    (disableGdma c s).cpuScript = s.cpuScript := rfl

@[simp] theorem disableGdma_cpuEngine (c : Chan) (s : State) :
    (disableGdma c s).cpuEngine = s.cpuEngine := rfl

@[simp] theorem disableGdma_port (c : Chan) (s : State) :
    (disableGdma c s).port = s.port := rfl

@[simp] theorem disableGdma_inbox (c : Chan) (s : State) :
    (disableGdma c s).inbox = s.inbox := rfl

@[simp] theorem disableGdma_draws (c : Chan) (s : State) :
    (disableGdma c s).draws = s.draws := rfl

@[simp] theorem disableGdma_current (c : Chan) (s : State) :
    (disableGdma c s).current = s.current := rfl

@[simp] theorem disableGdma_cpuByte (c : Chan) (s : State) :
    (disableGdma c s).cpuByte = s.cpuByte := rfl

@[simp] theorem disableGdma_reply (c : Chan) (s : State) :
    (disableGdma c s).reply = s.reply := rfl

@[simp] theorem disableGdma_outputs (c : Chan) (s : State) :
    (disableGdma c s).outputs = s.outputs := rfl

/-! ### nmiEdgeEval -/

@[simp] theorem nmiEdgeEval_committed (s : State) :
    (nmiEdgeEval s).committed = s.committed := rfl

@[simp] theorem nmiEdgeEval_ahead (s : State) :
    (nmiEdgeEval s).ahead = s.ahead := rfl

@[simp] theorem nmiEdgeEval_seqCounter (s : State) :
    (nmiEdgeEval s).seqCounter = s.seqCounter := rfl

@[simp] theorem nmiEdgeEval_events (s : State) :
    (nmiEdgeEval s).events = s.events := rfl

@[simp] theorem nmiEdgeEval_openBus (s : State) :
    (nmiEdgeEval s).openBus = s.openBus := rfl

@[simp] theorem nmiEdgeEval_cpuState (s : State) :
    (nmiEdgeEval s).cpuState = s.cpuState := rfl

@[simp] theorem nmiEdgeEval_gdmaActive (s : State) :
    (nmiEdgeEval s).gdmaActive = s.gdmaActive := rfl

@[simp] theorem nmiEdgeEval_stallActive (s : State) :
    (nmiEdgeEval s).stallActive = s.stallActive := rfl

@[simp] theorem nmiEdgeEval_stallUntil (s : State) :
    (nmiEdgeEval s).stallUntil = s.stallUntil := rfl

@[simp] theorem nmiEdgeEval_memsel (s : State) :
    (nmiEdgeEval s).memsel = s.memsel := rfl

@[simp] theorem nmiEdgeEval_fault (s : State) :
    (nmiEdgeEval s).fault = s.fault := rfl

@[simp] theorem nmiEdgeEval_channels (s : State) :
    (nmiEdgeEval s).channels = s.channels := rfl

@[simp] theorem nmiEdgeEval_mdmaen (s : State) :
    (nmiEdgeEval s).mdmaen = s.mdmaen := rfl

@[simp] theorem nmiEdgeEval_hdmaen (s : State) :
    (nmiEdgeEval s).hdmaen = s.hdmaen := rfl

@[simp] theorem nmiEdgeEval_gdmaPhase (s : State) :
    (nmiEdgeEval s).gdmaPhase = s.gdmaPhase := rfl

@[simp] theorem nmiEdgeEval_gdmaChannel (s : State) :
    (nmiEdgeEval s).gdmaChannel = s.gdmaChannel := rfl

@[simp] theorem nmiEdgeEval_gdmaIndex (s : State) :
    (nmiEdgeEval s).gdmaIndex = s.gdmaIndex := rfl

@[simp] theorem nmiEdgeEval_dot (s : State) :
    (nmiEdgeEval s).dot = s.dot := rfl

@[simp] theorem nmiEdgeEval_scanline (s : State) :
    (nmiEdgeEval s).scanline = s.scanline := rfl

@[simp] theorem nmiEdgeEval_hblank (s : State) :
    (nmiEdgeEval s).hblank = s.hblank := rfl

@[simp] theorem nmiEdgeEval_vblank (s : State) :
    (nmiEdgeEval s).vblank = s.vblank := rfl

@[simp] theorem nmiEdgeEval_field (s : State) :
    (nmiEdgeEval s).field = s.field := rfl

@[simp] theorem nmiEdgeEval_nmitimen (s : State) :
    (nmiEdgeEval s).nmitimen = s.nmitimen := rfl

@[simp] theorem nmiEdgeEval_htime (s : State) :
    (nmiEdgeEval s).htime = s.htime := rfl

@[simp] theorem nmiEdgeEval_vtime (s : State) :
    (nmiEdgeEval s).vtime = s.vtime := rfl

@[simp] theorem nmiEdgeEval_nmiFlag (s : State) :
    (nmiEdgeEval s).nmiFlag = s.nmiFlag := rfl

@[simp] theorem nmiEdgeEval_nmiPrev (s : State) :
    (nmiEdgeEval s).nmiPrev = (nmiEnable s && s.nmiFlag) := rfl

@[simp] theorem nmiEdgeEval_nmiRequest (s : State) :
    (nmiEdgeEval s).nmiRequest = (s.nmiRequest || (nmiEnable s && s.nmiFlag && !s.nmiPrev)) := rfl

@[simp] theorem nmiEdgeEval_irqFlag (s : State) :
    (nmiEdgeEval s).irqFlag = s.irqFlag := rfl

@[simp] theorem nmiEdgeEval_autoJoyBusy (s : State) :
    (nmiEdgeEval s).autoJoyBusy = s.autoJoyBusy := rfl

@[simp] theorem nmiEdgeEval_joy (s : State) :
    (nmiEdgeEval s).joy = s.joy := rfl

@[simp] theorem nmiEdgeEval_joyInput (s : State) :
    (nmiEdgeEval s).joyInput = s.joyInput := rfl

@[simp] theorem nmiEdgeEval_wrio (s : State) :
    (nmiEdgeEval s).wrio = s.wrio := rfl

@[simp] theorem nmiEdgeEval_latchH (s : State) :
    (nmiEdgeEval s).latchH = s.latchH := rfl

@[simp] theorem nmiEdgeEval_latchV (s : State) :
    (nmiEdgeEval s).latchV = s.latchV := rfl

@[simp] theorem nmiEdgeEval_latchFlag (s : State) :
    (nmiEdgeEval s).latchFlag = s.latchFlag := rfl

@[simp] theorem nmiEdgeEval_ophctFF (s : State) :
    (nmiEdgeEval s).ophctFF = s.ophctFF := rfl

@[simp] theorem nmiEdgeEval_opvctFF (s : State) :
    (nmiEdgeEval s).opvctFF = s.opvctFF := rfl

@[simp] theorem nmiEdgeEval_frameCounter (s : State) :
    (nmiEdgeEval s).frameCounter = s.frameCounter := rfl

@[simp] theorem nmiEdgeEval_frameDone (s : State) :
    (nmiEdgeEval s).frameDone = s.frameDone := rfl

@[simp] theorem nmiEdgeEval_paused (s : State) :
    (nmiEdgeEval s).paused = s.paused := rfl

@[simp] theorem nmiEdgeEval_cfg (s : State) :
    (nmiEdgeEval s).cfg = s.cfg := rfl

@[simp] theorem nmiEdgeEval_regions (s : State) :
    (nmiEdgeEval s).regions = s.regions := rfl

@[simp] theorem nmiEdgeEval_mem (s : State) :
    (nmiEdgeEval s).mem = s.mem := rfl

@[simp] theorem nmiEdgeEval_routerState (s : State) :
    (nmiEdgeEval s).routerState = s.routerState := rfl

@[simp] theorem nmiEdgeEval_cpuScript (s : State) :
    (nmiEdgeEval s).cpuScript = s.cpuScript := rfl

@[simp] theorem nmiEdgeEval_cpuEngine (s : State) :
    (nmiEdgeEval s).cpuEngine = s.cpuEngine := rfl

@[simp] theorem nmiEdgeEval_port (s : State) :
    (nmiEdgeEval s).port = s.port := rfl

@[simp] theorem nmiEdgeEval_inbox (s : State) :
    (nmiEdgeEval s).inbox = s.inbox := rfl

@[simp] theorem nmiEdgeEval_draws (s : State) :
    (nmiEdgeEval s).draws = s.draws := rfl

@[simp] theorem nmiEdgeEval_current (s : State) :
    (nmiEdgeEval s).current = s.current := rfl

@[simp] theorem nmiEdgeEval_cpuByte (s : State) :
    (nmiEdgeEval s).cpuByte = s.cpuByte := rfl

@[simp] theorem nmiEdgeEval_reply (s : State) :
    (nmiEdgeEval s).reply = s.reply := rfl

@[simp] theorem nmiEdgeEval_outputs (s : State) :
    (nmiEdgeEval s).outputs = s.outputs := rfl

/-! ### latchCounters -/

@[simp] theorem latchCounters_committed (s : State) :
    (latchCounters s).committed = s.committed := rfl

@[simp] theorem latchCounters_ahead (s : State) :
    (latchCounters s).ahead = s.ahead := rfl

@[simp] theorem latchCounters_seqCounter (s : State) :
    (latchCounters s).seqCounter = s.seqCounter := rfl

@[simp] theorem latchCounters_events (s : State) :
    (latchCounters s).events = s.events := rfl

@[simp] theorem latchCounters_openBus (s : State) :
    (latchCounters s).openBus = s.openBus := rfl

@[simp] theorem latchCounters_cpuState (s : State) :
    (latchCounters s).cpuState = s.cpuState := rfl

@[simp] theorem latchCounters_gdmaActive (s : State) :
    (latchCounters s).gdmaActive = s.gdmaActive := rfl

@[simp] theorem latchCounters_stallActive (s : State) :
    (latchCounters s).stallActive = s.stallActive := rfl

@[simp] theorem latchCounters_stallUntil (s : State) :
    (latchCounters s).stallUntil = s.stallUntil := rfl

@[simp] theorem latchCounters_memsel (s : State) :
    (latchCounters s).memsel = s.memsel := rfl

@[simp] theorem latchCounters_fault (s : State) :
    (latchCounters s).fault = s.fault := rfl

@[simp] theorem latchCounters_channels (s : State) :
    (latchCounters s).channels = s.channels := rfl

@[simp] theorem latchCounters_mdmaen (s : State) :
    (latchCounters s).mdmaen = s.mdmaen := rfl

@[simp] theorem latchCounters_hdmaen (s : State) :
    (latchCounters s).hdmaen = s.hdmaen := rfl

@[simp] theorem latchCounters_gdmaPhase (s : State) :
    (latchCounters s).gdmaPhase = s.gdmaPhase := rfl

@[simp] theorem latchCounters_gdmaChannel (s : State) :
    (latchCounters s).gdmaChannel = s.gdmaChannel := rfl

@[simp] theorem latchCounters_gdmaIndex (s : State) :
    (latchCounters s).gdmaIndex = s.gdmaIndex := rfl

@[simp] theorem latchCounters_dot (s : State) :
    (latchCounters s).dot = s.dot := rfl

@[simp] theorem latchCounters_scanline (s : State) :
    (latchCounters s).scanline = s.scanline := rfl

@[simp] theorem latchCounters_hblank (s : State) :
    (latchCounters s).hblank = s.hblank := rfl

@[simp] theorem latchCounters_vblank (s : State) :
    (latchCounters s).vblank = s.vblank := rfl

@[simp] theorem latchCounters_field (s : State) :
    (latchCounters s).field = s.field := rfl

@[simp] theorem latchCounters_nmitimen (s : State) :
    (latchCounters s).nmitimen = s.nmitimen := rfl

@[simp] theorem latchCounters_htime (s : State) :
    (latchCounters s).htime = s.htime := rfl

@[simp] theorem latchCounters_vtime (s : State) :
    (latchCounters s).vtime = s.vtime := rfl

@[simp] theorem latchCounters_nmiFlag (s : State) :
    (latchCounters s).nmiFlag = s.nmiFlag := rfl

@[simp] theorem latchCounters_nmiPrev (s : State) :
    (latchCounters s).nmiPrev = s.nmiPrev := rfl

@[simp] theorem latchCounters_nmiRequest (s : State) :
    (latchCounters s).nmiRequest = s.nmiRequest := rfl

@[simp] theorem latchCounters_irqFlag (s : State) :
    (latchCounters s).irqFlag = s.irqFlag := rfl

@[simp] theorem latchCounters_autoJoyBusy (s : State) :
    (latchCounters s).autoJoyBusy = s.autoJoyBusy := rfl

@[simp] theorem latchCounters_joy (s : State) :
    (latchCounters s).joy = s.joy := rfl

@[simp] theorem latchCounters_joyInput (s : State) :
    (latchCounters s).joyInput = s.joyInput := rfl

@[simp] theorem latchCounters_wrio (s : State) :
    (latchCounters s).wrio = s.wrio := rfl

@[simp] theorem latchCounters_latchH (s : State) :
    (latchCounters s).latchH = BitVec.ofNat 9 s.dot := rfl

@[simp] theorem latchCounters_latchV (s : State) :
    (latchCounters s).latchV = BitVec.ofNat 9 s.scanline := rfl

@[simp] theorem latchCounters_latchFlag (s : State) :
    (latchCounters s).latchFlag = true := rfl

@[simp] theorem latchCounters_ophctFF (s : State) :
    (latchCounters s).ophctFF = s.ophctFF := rfl

@[simp] theorem latchCounters_opvctFF (s : State) :
    (latchCounters s).opvctFF = s.opvctFF := rfl

@[simp] theorem latchCounters_frameCounter (s : State) :
    (latchCounters s).frameCounter = s.frameCounter := rfl

@[simp] theorem latchCounters_frameDone (s : State) :
    (latchCounters s).frameDone = s.frameDone := rfl

@[simp] theorem latchCounters_paused (s : State) :
    (latchCounters s).paused = s.paused := rfl

@[simp] theorem latchCounters_cfg (s : State) :
    (latchCounters s).cfg = s.cfg := rfl

@[simp] theorem latchCounters_regions (s : State) :
    (latchCounters s).regions = s.regions := rfl

@[simp] theorem latchCounters_mem (s : State) :
    (latchCounters s).mem = s.mem := rfl

@[simp] theorem latchCounters_routerState (s : State) :
    (latchCounters s).routerState = s.routerState := rfl

@[simp] theorem latchCounters_cpuScript (s : State) :
    (latchCounters s).cpuScript = s.cpuScript := rfl

@[simp] theorem latchCounters_cpuEngine (s : State) :
    (latchCounters s).cpuEngine = s.cpuEngine := rfl

@[simp] theorem latchCounters_port (s : State) :
    (latchCounters s).port = s.port := rfl

@[simp] theorem latchCounters_inbox (s : State) :
    (latchCounters s).inbox = s.inbox := rfl

@[simp] theorem latchCounters_draws (s : State) :
    (latchCounters s).draws = s.draws := rfl

@[simp] theorem latchCounters_current (s : State) :
    (latchCounters s).current = s.current := rfl

@[simp] theorem latchCounters_cpuByte (s : State) :
    (latchCounters s).cpuByte = s.cpuByte := rfl

@[simp] theorem latchCounters_reply (s : State) :
    (latchCounters s).reply = s.reply := rfl

@[simp] theorem latchCounters_outputs (s : State) :
    (latchCounters s).outputs = s.outputs := rfl

/-! ### setCurrent -/

@[simp] theorem setCurrent_committed (e : Option EventId) (s : State) :
    (setCurrent e s).committed = s.committed := rfl

@[simp] theorem setCurrent_ahead (e : Option EventId) (s : State) :
    (setCurrent e s).ahead = s.ahead := rfl

@[simp] theorem setCurrent_seqCounter (e : Option EventId) (s : State) :
    (setCurrent e s).seqCounter = s.seqCounter := rfl

@[simp] theorem setCurrent_events (e : Option EventId) (s : State) :
    (setCurrent e s).events = s.events := rfl

@[simp] theorem setCurrent_openBus (e : Option EventId) (s : State) :
    (setCurrent e s).openBus = s.openBus := rfl

@[simp] theorem setCurrent_cpuState (e : Option EventId) (s : State) :
    (setCurrent e s).cpuState = s.cpuState := rfl

@[simp] theorem setCurrent_gdmaActive (e : Option EventId) (s : State) :
    (setCurrent e s).gdmaActive = s.gdmaActive := rfl

@[simp] theorem setCurrent_stallActive (e : Option EventId) (s : State) :
    (setCurrent e s).stallActive = s.stallActive := rfl

@[simp] theorem setCurrent_stallUntil (e : Option EventId) (s : State) :
    (setCurrent e s).stallUntil = s.stallUntil := rfl

@[simp] theorem setCurrent_memsel (e : Option EventId) (s : State) :
    (setCurrent e s).memsel = s.memsel := rfl

@[simp] theorem setCurrent_fault (e : Option EventId) (s : State) :
    (setCurrent e s).fault = s.fault := rfl

@[simp] theorem setCurrent_channels (e : Option EventId) (s : State) :
    (setCurrent e s).channels = s.channels := rfl

@[simp] theorem setCurrent_mdmaen (e : Option EventId) (s : State) :
    (setCurrent e s).mdmaen = s.mdmaen := rfl

@[simp] theorem setCurrent_hdmaen (e : Option EventId) (s : State) :
    (setCurrent e s).hdmaen = s.hdmaen := rfl

@[simp] theorem setCurrent_gdmaPhase (e : Option EventId) (s : State) :
    (setCurrent e s).gdmaPhase = s.gdmaPhase := rfl

@[simp] theorem setCurrent_gdmaChannel (e : Option EventId) (s : State) :
    (setCurrent e s).gdmaChannel = s.gdmaChannel := rfl

@[simp] theorem setCurrent_gdmaIndex (e : Option EventId) (s : State) :
    (setCurrent e s).gdmaIndex = s.gdmaIndex := rfl

@[simp] theorem setCurrent_dot (e : Option EventId) (s : State) :
    (setCurrent e s).dot = s.dot := rfl

@[simp] theorem setCurrent_scanline (e : Option EventId) (s : State) :
    (setCurrent e s).scanline = s.scanline := rfl

@[simp] theorem setCurrent_hblank (e : Option EventId) (s : State) :
    (setCurrent e s).hblank = s.hblank := rfl

@[simp] theorem setCurrent_vblank (e : Option EventId) (s : State) :
    (setCurrent e s).vblank = s.vblank := rfl

@[simp] theorem setCurrent_field (e : Option EventId) (s : State) :
    (setCurrent e s).field = s.field := rfl

@[simp] theorem setCurrent_nmitimen (e : Option EventId) (s : State) :
    (setCurrent e s).nmitimen = s.nmitimen := rfl

@[simp] theorem setCurrent_htime (e : Option EventId) (s : State) :
    (setCurrent e s).htime = s.htime := rfl

@[simp] theorem setCurrent_vtime (e : Option EventId) (s : State) :
    (setCurrent e s).vtime = s.vtime := rfl

@[simp] theorem setCurrent_nmiFlag (e : Option EventId) (s : State) :
    (setCurrent e s).nmiFlag = s.nmiFlag := rfl

@[simp] theorem setCurrent_nmiPrev (e : Option EventId) (s : State) :
    (setCurrent e s).nmiPrev = s.nmiPrev := rfl

@[simp] theorem setCurrent_nmiRequest (e : Option EventId) (s : State) :
    (setCurrent e s).nmiRequest = s.nmiRequest := rfl

@[simp] theorem setCurrent_irqFlag (e : Option EventId) (s : State) :
    (setCurrent e s).irqFlag = s.irqFlag := rfl

@[simp] theorem setCurrent_autoJoyBusy (e : Option EventId) (s : State) :
    (setCurrent e s).autoJoyBusy = s.autoJoyBusy := rfl

@[simp] theorem setCurrent_joy (e : Option EventId) (s : State) :
    (setCurrent e s).joy = s.joy := rfl

@[simp] theorem setCurrent_joyInput (e : Option EventId) (s : State) :
    (setCurrent e s).joyInput = s.joyInput := rfl

@[simp] theorem setCurrent_wrio (e : Option EventId) (s : State) :
    (setCurrent e s).wrio = s.wrio := rfl

@[simp] theorem setCurrent_latchH (e : Option EventId) (s : State) :
    (setCurrent e s).latchH = s.latchH := rfl

@[simp] theorem setCurrent_latchV (e : Option EventId) (s : State) :
    (setCurrent e s).latchV = s.latchV := rfl

@[simp] theorem setCurrent_latchFlag (e : Option EventId) (s : State) :
    (setCurrent e s).latchFlag = s.latchFlag := rfl

@[simp] theorem setCurrent_ophctFF (e : Option EventId) (s : State) :
    (setCurrent e s).ophctFF = s.ophctFF := rfl

@[simp] theorem setCurrent_opvctFF (e : Option EventId) (s : State) :
    (setCurrent e s).opvctFF = s.opvctFF := rfl

@[simp] theorem setCurrent_frameCounter (e : Option EventId) (s : State) :
    (setCurrent e s).frameCounter = s.frameCounter := rfl

@[simp] theorem setCurrent_frameDone (e : Option EventId) (s : State) :
    (setCurrent e s).frameDone = s.frameDone := rfl

@[simp] theorem setCurrent_paused (e : Option EventId) (s : State) :
    (setCurrent e s).paused = s.paused := rfl

@[simp] theorem setCurrent_cfg (e : Option EventId) (s : State) :
    (setCurrent e s).cfg = s.cfg := rfl

@[simp] theorem setCurrent_regions (e : Option EventId) (s : State) :
    (setCurrent e s).regions = s.regions := rfl

@[simp] theorem setCurrent_mem (e : Option EventId) (s : State) :
    (setCurrent e s).mem = s.mem := rfl

@[simp] theorem setCurrent_routerState (e : Option EventId) (s : State) :
    (setCurrent e s).routerState = s.routerState := rfl

@[simp] theorem setCurrent_cpuScript (e : Option EventId) (s : State) :
    (setCurrent e s).cpuScript = s.cpuScript := rfl

@[simp] theorem setCurrent_cpuEngine (e : Option EventId) (s : State) :
    (setCurrent e s).cpuEngine = s.cpuEngine := rfl

@[simp] theorem setCurrent_port (e : Option EventId) (s : State) :
    (setCurrent e s).port = s.port := rfl

@[simp] theorem setCurrent_inbox (e : Option EventId) (s : State) :
    (setCurrent e s).inbox = s.inbox := rfl

@[simp] theorem setCurrent_draws (e : Option EventId) (s : State) :
    (setCurrent e s).draws = s.draws := rfl

@[simp] theorem setCurrent_current (e : Option EventId) (s : State) :
    (setCurrent e s).current = e := rfl

@[simp] theorem setCurrent_cpuByte (e : Option EventId) (s : State) :
    (setCurrent e s).cpuByte = s.cpuByte := rfl

@[simp] theorem setCurrent_reply (e : Option EventId) (s : State) :
    (setCurrent e s).reply = s.reply := rfl

@[simp] theorem setCurrent_outputs (e : Option EventId) (s : State) :
    (setCurrent e s).outputs = s.outputs := rfl

/-! ### commit -/

@[simp] theorem commit_committed (n : Nat) (s : State) :
    (commit n s).committed = s.committed + n := rfl

@[simp] theorem commit_ahead (n : Nat) (s : State) :
    (commit n s).ahead = 0 := rfl

@[simp] theorem commit_seqCounter (n : Nat) (s : State) :
    (commit n s).seqCounter = s.seqCounter := rfl

@[simp] theorem commit_events (n : Nat) (s : State) :
    (commit n s).events = s.events := rfl

@[simp] theorem commit_openBus (n : Nat) (s : State) :
    (commit n s).openBus = s.openBus := rfl

@[simp] theorem commit_cpuState (n : Nat) (s : State) :
    (commit n s).cpuState = s.cpuState := rfl

@[simp] theorem commit_gdmaActive (n : Nat) (s : State) :
    (commit n s).gdmaActive = s.gdmaActive := rfl

@[simp] theorem commit_stallActive (n : Nat) (s : State) :
    (commit n s).stallActive = s.stallActive := rfl

@[simp] theorem commit_stallUntil (n : Nat) (s : State) :
    (commit n s).stallUntil = s.stallUntil := rfl

@[simp] theorem commit_memsel (n : Nat) (s : State) :
    (commit n s).memsel = s.memsel := rfl

@[simp] theorem commit_fault (n : Nat) (s : State) :
    (commit n s).fault = s.fault := rfl

@[simp] theorem commit_channels (n : Nat) (s : State) :
    (commit n s).channels = s.channels := rfl

@[simp] theorem commit_mdmaen (n : Nat) (s : State) :
    (commit n s).mdmaen = s.mdmaen := rfl

@[simp] theorem commit_hdmaen (n : Nat) (s : State) :
    (commit n s).hdmaen = s.hdmaen := rfl

@[simp] theorem commit_gdmaPhase (n : Nat) (s : State) :
    (commit n s).gdmaPhase = s.gdmaPhase := rfl

@[simp] theorem commit_gdmaChannel (n : Nat) (s : State) :
    (commit n s).gdmaChannel = s.gdmaChannel := rfl

@[simp] theorem commit_gdmaIndex (n : Nat) (s : State) :
    (commit n s).gdmaIndex = s.gdmaIndex := rfl

@[simp] theorem commit_dot (n : Nat) (s : State) :
    (commit n s).dot = s.dot := rfl

@[simp] theorem commit_scanline (n : Nat) (s : State) :
    (commit n s).scanline = s.scanline := rfl

@[simp] theorem commit_hblank (n : Nat) (s : State) :
    (commit n s).hblank = s.hblank := rfl

@[simp] theorem commit_vblank (n : Nat) (s : State) :
    (commit n s).vblank = s.vblank := rfl

@[simp] theorem commit_field (n : Nat) (s : State) :
    (commit n s).field = s.field := rfl

@[simp] theorem commit_nmitimen (n : Nat) (s : State) :
    (commit n s).nmitimen = s.nmitimen := rfl

@[simp] theorem commit_htime (n : Nat) (s : State) :
    (commit n s).htime = s.htime := rfl

@[simp] theorem commit_vtime (n : Nat) (s : State) :
    (commit n s).vtime = s.vtime := rfl

@[simp] theorem commit_nmiFlag (n : Nat) (s : State) :
    (commit n s).nmiFlag = s.nmiFlag := rfl

@[simp] theorem commit_nmiPrev (n : Nat) (s : State) :
    (commit n s).nmiPrev = s.nmiPrev := rfl

@[simp] theorem commit_nmiRequest (n : Nat) (s : State) :
    (commit n s).nmiRequest = s.nmiRequest := rfl

@[simp] theorem commit_irqFlag (n : Nat) (s : State) :
    (commit n s).irqFlag = s.irqFlag := rfl

@[simp] theorem commit_autoJoyBusy (n : Nat) (s : State) :
    (commit n s).autoJoyBusy = s.autoJoyBusy := rfl

@[simp] theorem commit_joy (n : Nat) (s : State) :
    (commit n s).joy = s.joy := rfl

@[simp] theorem commit_joyInput (n : Nat) (s : State) :
    (commit n s).joyInput = s.joyInput := rfl

@[simp] theorem commit_wrio (n : Nat) (s : State) :
    (commit n s).wrio = s.wrio := rfl

@[simp] theorem commit_latchH (n : Nat) (s : State) :
    (commit n s).latchH = s.latchH := rfl

@[simp] theorem commit_latchV (n : Nat) (s : State) :
    (commit n s).latchV = s.latchV := rfl

@[simp] theorem commit_latchFlag (n : Nat) (s : State) :
    (commit n s).latchFlag = s.latchFlag := rfl

@[simp] theorem commit_ophctFF (n : Nat) (s : State) :
    (commit n s).ophctFF = s.ophctFF := rfl

@[simp] theorem commit_opvctFF (n : Nat) (s : State) :
    (commit n s).opvctFF = s.opvctFF := rfl

@[simp] theorem commit_frameCounter (n : Nat) (s : State) :
    (commit n s).frameCounter = s.frameCounter := rfl

@[simp] theorem commit_frameDone (n : Nat) (s : State) :
    (commit n s).frameDone = s.frameDone := rfl

@[simp] theorem commit_paused (n : Nat) (s : State) :
    (commit n s).paused = s.paused := rfl

@[simp] theorem commit_cfg (n : Nat) (s : State) :
    (commit n s).cfg = s.cfg := rfl

@[simp] theorem commit_regions (n : Nat) (s : State) :
    (commit n s).regions = s.regions := rfl

@[simp] theorem commit_mem (n : Nat) (s : State) :
    (commit n s).mem = s.mem := rfl

@[simp] theorem commit_routerState (n : Nat) (s : State) :
    (commit n s).routerState = s.routerState := rfl

@[simp] theorem commit_cpuScript (n : Nat) (s : State) :
    (commit n s).cpuScript = s.cpuScript := rfl

@[simp] theorem commit_cpuEngine (n : Nat) (s : State) :
    (commit n s).cpuEngine = s.cpuEngine := rfl

@[simp] theorem commit_port (n : Nat) (s : State) :
    (commit n s).port = s.port := rfl

@[simp] theorem commit_inbox (n : Nat) (s : State) :
    (commit n s).inbox = s.inbox := rfl

@[simp] theorem commit_draws (n : Nat) (s : State) :
    (commit n s).draws = s.draws := rfl

@[simp] theorem commit_current (n : Nat) (s : State) :
    (commit n s).current = s.current := rfl

@[simp] theorem commit_cpuByte (n : Nat) (s : State) :
    (commit n s).cpuByte = s.cpuByte := rfl

@[simp] theorem commit_reply (n : Nat) (s : State) :
    (commit n s).reply = s.reply := rfl

@[simp] theorem commit_outputs (n : Nat) (s : State) :
    (commit n s).outputs = s.outputs := rfl

/-! ### takeWord -/

@[simp] theorem takeWord_committed (rest : List Packet) (s : State) :
    (takeWord rest s).committed = s.committed := rfl

@[simp] theorem takeWord_ahead (rest : List Packet) (s : State) :
    (takeWord rest s).ahead = s.ahead := rfl

@[simp] theorem takeWord_seqCounter (rest : List Packet) (s : State) :
    (takeWord rest s).seqCounter = s.seqCounter := rfl

@[simp] theorem takeWord_events (rest : List Packet) (s : State) :
    (takeWord rest s).events = s.events := rfl

@[simp] theorem takeWord_openBus (rest : List Packet) (s : State) :
    (takeWord rest s).openBus = s.openBus := rfl

@[simp] theorem takeWord_cpuState (rest : List Packet) (s : State) :
    (takeWord rest s).cpuState = s.cpuState := rfl

@[simp] theorem takeWord_gdmaActive (rest : List Packet) (s : State) :
    (takeWord rest s).gdmaActive = s.gdmaActive := rfl

@[simp] theorem takeWord_stallActive (rest : List Packet) (s : State) :
    (takeWord rest s).stallActive = s.stallActive := rfl

@[simp] theorem takeWord_stallUntil (rest : List Packet) (s : State) :
    (takeWord rest s).stallUntil = s.stallUntil := rfl

@[simp] theorem takeWord_memsel (rest : List Packet) (s : State) :
    (takeWord rest s).memsel = s.memsel := rfl

@[simp] theorem takeWord_fault (rest : List Packet) (s : State) :
    (takeWord rest s).fault = s.fault := rfl

@[simp] theorem takeWord_channels (rest : List Packet) (s : State) :
    (takeWord rest s).channels = s.channels := rfl

@[simp] theorem takeWord_mdmaen (rest : List Packet) (s : State) :
    (takeWord rest s).mdmaen = s.mdmaen := rfl

@[simp] theorem takeWord_hdmaen (rest : List Packet) (s : State) :
    (takeWord rest s).hdmaen = s.hdmaen := rfl

@[simp] theorem takeWord_gdmaPhase (rest : List Packet) (s : State) :
    (takeWord rest s).gdmaPhase = s.gdmaPhase := rfl

@[simp] theorem takeWord_gdmaChannel (rest : List Packet) (s : State) :
    (takeWord rest s).gdmaChannel = s.gdmaChannel := rfl

@[simp] theorem takeWord_gdmaIndex (rest : List Packet) (s : State) :
    (takeWord rest s).gdmaIndex = s.gdmaIndex := rfl

@[simp] theorem takeWord_dot (rest : List Packet) (s : State) :
    (takeWord rest s).dot = s.dot := rfl

@[simp] theorem takeWord_scanline (rest : List Packet) (s : State) :
    (takeWord rest s).scanline = s.scanline := rfl

@[simp] theorem takeWord_hblank (rest : List Packet) (s : State) :
    (takeWord rest s).hblank = s.hblank := rfl

@[simp] theorem takeWord_vblank (rest : List Packet) (s : State) :
    (takeWord rest s).vblank = s.vblank := rfl

@[simp] theorem takeWord_field (rest : List Packet) (s : State) :
    (takeWord rest s).field = s.field := rfl

@[simp] theorem takeWord_nmitimen (rest : List Packet) (s : State) :
    (takeWord rest s).nmitimen = s.nmitimen := rfl

@[simp] theorem takeWord_htime (rest : List Packet) (s : State) :
    (takeWord rest s).htime = s.htime := rfl

@[simp] theorem takeWord_vtime (rest : List Packet) (s : State) :
    (takeWord rest s).vtime = s.vtime := rfl

@[simp] theorem takeWord_nmiFlag (rest : List Packet) (s : State) :
    (takeWord rest s).nmiFlag = s.nmiFlag := rfl

@[simp] theorem takeWord_nmiPrev (rest : List Packet) (s : State) :
    (takeWord rest s).nmiPrev = s.nmiPrev := rfl

@[simp] theorem takeWord_nmiRequest (rest : List Packet) (s : State) :
    (takeWord rest s).nmiRequest = s.nmiRequest := rfl

@[simp] theorem takeWord_irqFlag (rest : List Packet) (s : State) :
    (takeWord rest s).irqFlag = s.irqFlag := rfl

@[simp] theorem takeWord_autoJoyBusy (rest : List Packet) (s : State) :
    (takeWord rest s).autoJoyBusy = s.autoJoyBusy := rfl

@[simp] theorem takeWord_joy (rest : List Packet) (s : State) :
    (takeWord rest s).joy = s.joy := rfl

@[simp] theorem takeWord_joyInput (rest : List Packet) (s : State) :
    (takeWord rest s).joyInput = s.joyInput := rfl

@[simp] theorem takeWord_wrio (rest : List Packet) (s : State) :
    (takeWord rest s).wrio = s.wrio := rfl

@[simp] theorem takeWord_latchH (rest : List Packet) (s : State) :
    (takeWord rest s).latchH = s.latchH := rfl

@[simp] theorem takeWord_latchV (rest : List Packet) (s : State) :
    (takeWord rest s).latchV = s.latchV := rfl

@[simp] theorem takeWord_latchFlag (rest : List Packet) (s : State) :
    (takeWord rest s).latchFlag = s.latchFlag := rfl

@[simp] theorem takeWord_ophctFF (rest : List Packet) (s : State) :
    (takeWord rest s).ophctFF = s.ophctFF := rfl

@[simp] theorem takeWord_opvctFF (rest : List Packet) (s : State) :
    (takeWord rest s).opvctFF = s.opvctFF := rfl

@[simp] theorem takeWord_frameCounter (rest : List Packet) (s : State) :
    (takeWord rest s).frameCounter = s.frameCounter := rfl

@[simp] theorem takeWord_frameDone (rest : List Packet) (s : State) :
    (takeWord rest s).frameDone = s.frameDone := rfl

@[simp] theorem takeWord_paused (rest : List Packet) (s : State) :
    (takeWord rest s).paused = s.paused := rfl

@[simp] theorem takeWord_cfg (rest : List Packet) (s : State) :
    (takeWord rest s).cfg = s.cfg := rfl

@[simp] theorem takeWord_regions (rest : List Packet) (s : State) :
    (takeWord rest s).regions = s.regions := rfl

@[simp] theorem takeWord_mem (rest : List Packet) (s : State) :
    (takeWord rest s).mem = s.mem := rfl

@[simp] theorem takeWord_routerState (rest : List Packet) (s : State) :
    (takeWord rest s).routerState = s.routerState := rfl

@[simp] theorem takeWord_cpuScript (rest : List Packet) (s : State) :
    (takeWord rest s).cpuScript = s.cpuScript := rfl

@[simp] theorem takeWord_cpuEngine (rest : List Packet) (s : State) :
    (takeWord rest s).cpuEngine = s.cpuEngine := rfl

@[simp] theorem takeWord_port (rest : List Packet) (s : State) :
    (takeWord rest s).port = s.port := rfl

@[simp] theorem takeWord_inbox (rest : List Packet) (s : State) :
    (takeWord rest s).inbox = rest := rfl

@[simp] theorem takeWord_draws (rest : List Packet) (s : State) :
    (takeWord rest s).draws = s.draws := rfl

@[simp] theorem takeWord_current (rest : List Packet) (s : State) :
    (takeWord rest s).current = s.current := rfl

@[simp] theorem takeWord_cpuByte (rest : List Packet) (s : State) :
    (takeWord rest s).cpuByte = s.cpuByte := rfl

@[simp] theorem takeWord_reply (rest : List Packet) (s : State) :
    (takeWord rest s).reply = s.reply := rfl

@[simp] theorem takeWord_outputs (rest : List Packet) (s : State) :
    (takeWord rest s).outputs = s.outputs := rfl

/-! ### takeInterrupt -/

@[simp] theorem takeInterrupt_committed (s : State) :
    (takeInterrupt s).committed = s.committed := by
  unfold takeInterrupt; split <;> rfl

@[simp] theorem takeInterrupt_ahead (s : State) :
    (takeInterrupt s).ahead = s.ahead := by
  unfold takeInterrupt; split <;> rfl

@[simp] theorem takeInterrupt_seqCounter (s : State) :
    (takeInterrupt s).seqCounter = s.seqCounter := by
  unfold takeInterrupt; split <;> rfl

@[simp] theorem takeInterrupt_events (s : State) :
    (takeInterrupt s).events = s.events := by
  unfold takeInterrupt; split <;> rfl

@[simp] theorem takeInterrupt_openBus (s : State) :
    (takeInterrupt s).openBus = s.openBus := by
  unfold takeInterrupt; split <;> rfl

@[simp] theorem takeInterrupt_cpuState (s : State) :
    (takeInterrupt s).cpuState = s.cpuState := by
  unfold takeInterrupt; split <;> rfl

@[simp] theorem takeInterrupt_gdmaActive (s : State) :
    (takeInterrupt s).gdmaActive = s.gdmaActive := by
  unfold takeInterrupt; split <;> rfl

@[simp] theorem takeInterrupt_stallActive (s : State) :
    (takeInterrupt s).stallActive = s.stallActive := by
  unfold takeInterrupt; split <;> rfl

@[simp] theorem takeInterrupt_stallUntil (s : State) :
    (takeInterrupt s).stallUntil = s.stallUntil := by
  unfold takeInterrupt; split <;> rfl

@[simp] theorem takeInterrupt_memsel (s : State) :
    (takeInterrupt s).memsel = s.memsel := by
  unfold takeInterrupt; split <;> rfl

@[simp] theorem takeInterrupt_fault (s : State) :
    (takeInterrupt s).fault = s.fault := by
  unfold takeInterrupt; split <;> rfl

@[simp] theorem takeInterrupt_channels (s : State) :
    (takeInterrupt s).channels = s.channels := by
  unfold takeInterrupt; split <;> rfl

@[simp] theorem takeInterrupt_mdmaen (s : State) :
    (takeInterrupt s).mdmaen = s.mdmaen := by
  unfold takeInterrupt; split <;> rfl

@[simp] theorem takeInterrupt_hdmaen (s : State) :
    (takeInterrupt s).hdmaen = s.hdmaen := by
  unfold takeInterrupt; split <;> rfl

@[simp] theorem takeInterrupt_gdmaPhase (s : State) :
    (takeInterrupt s).gdmaPhase = s.gdmaPhase := by
  unfold takeInterrupt; split <;> rfl

@[simp] theorem takeInterrupt_gdmaChannel (s : State) :
    (takeInterrupt s).gdmaChannel = s.gdmaChannel := by
  unfold takeInterrupt; split <;> rfl

@[simp] theorem takeInterrupt_gdmaIndex (s : State) :
    (takeInterrupt s).gdmaIndex = s.gdmaIndex := by
  unfold takeInterrupt; split <;> rfl

@[simp] theorem takeInterrupt_dot (s : State) :
    (takeInterrupt s).dot = s.dot := by
  unfold takeInterrupt; split <;> rfl

@[simp] theorem takeInterrupt_scanline (s : State) :
    (takeInterrupt s).scanline = s.scanline := by
  unfold takeInterrupt; split <;> rfl

@[simp] theorem takeInterrupt_hblank (s : State) :
    (takeInterrupt s).hblank = s.hblank := by
  unfold takeInterrupt; split <;> rfl

@[simp] theorem takeInterrupt_vblank (s : State) :
    (takeInterrupt s).vblank = s.vblank := by
  unfold takeInterrupt; split <;> rfl

@[simp] theorem takeInterrupt_field (s : State) :
    (takeInterrupt s).field = s.field := by
  unfold takeInterrupt; split <;> rfl

@[simp] theorem takeInterrupt_nmitimen (s : State) :
    (takeInterrupt s).nmitimen = s.nmitimen := by
  unfold takeInterrupt; split <;> rfl

@[simp] theorem takeInterrupt_htime (s : State) :
    (takeInterrupt s).htime = s.htime := by
  unfold takeInterrupt; split <;> rfl

@[simp] theorem takeInterrupt_vtime (s : State) :
    (takeInterrupt s).vtime = s.vtime := by
  unfold takeInterrupt; split <;> rfl

@[simp] theorem takeInterrupt_nmiFlag (s : State) :
    (takeInterrupt s).nmiFlag = s.nmiFlag := by
  unfold takeInterrupt; split <;> rfl

@[simp] theorem takeInterrupt_nmiPrev (s : State) :
    (takeInterrupt s).nmiPrev = s.nmiPrev := by
  unfold takeInterrupt; split <;> rfl

@[simp] theorem takeInterrupt_nmiRequest (s : State) :
    (takeInterrupt s).nmiRequest = s.nmiRequest := by
  unfold takeInterrupt; split <;> rfl

@[simp] theorem takeInterrupt_irqFlag (s : State) :
    (takeInterrupt s).irqFlag = s.irqFlag := by
  unfold takeInterrupt; split <;> rfl

@[simp] theorem takeInterrupt_autoJoyBusy (s : State) :
    (takeInterrupt s).autoJoyBusy = s.autoJoyBusy := by
  unfold takeInterrupt; split <;> rfl

@[simp] theorem takeInterrupt_joy (s : State) :
    (takeInterrupt s).joy = s.joy := by
  unfold takeInterrupt; split <;> rfl

@[simp] theorem takeInterrupt_joyInput (s : State) :
    (takeInterrupt s).joyInput = s.joyInput := by
  unfold takeInterrupt; split <;> rfl

@[simp] theorem takeInterrupt_wrio (s : State) :
    (takeInterrupt s).wrio = s.wrio := by
  unfold takeInterrupt; split <;> rfl

@[simp] theorem takeInterrupt_latchH (s : State) :
    (takeInterrupt s).latchH = s.latchH := by
  unfold takeInterrupt; split <;> rfl

@[simp] theorem takeInterrupt_latchV (s : State) :
    (takeInterrupt s).latchV = s.latchV := by
  unfold takeInterrupt; split <;> rfl

@[simp] theorem takeInterrupt_latchFlag (s : State) :
    (takeInterrupt s).latchFlag = s.latchFlag := by
  unfold takeInterrupt; split <;> rfl

@[simp] theorem takeInterrupt_ophctFF (s : State) :
    (takeInterrupt s).ophctFF = s.ophctFF := by
  unfold takeInterrupt; split <;> rfl

@[simp] theorem takeInterrupt_opvctFF (s : State) :
    (takeInterrupt s).opvctFF = s.opvctFF := by
  unfold takeInterrupt; split <;> rfl

@[simp] theorem takeInterrupt_frameCounter (s : State) :
    (takeInterrupt s).frameCounter = s.frameCounter := by
  unfold takeInterrupt; split <;> rfl

@[simp] theorem takeInterrupt_frameDone (s : State) :
    (takeInterrupt s).frameDone = s.frameDone := by
  unfold takeInterrupt; split <;> rfl

@[simp] theorem takeInterrupt_paused (s : State) :
    (takeInterrupt s).paused = s.paused := by
  unfold takeInterrupt; split <;> rfl

@[simp] theorem takeInterrupt_cfg (s : State) :
    (takeInterrupt s).cfg = s.cfg := by
  unfold takeInterrupt; split <;> rfl

@[simp] theorem takeInterrupt_regions (s : State) :
    (takeInterrupt s).regions = s.regions := by
  unfold takeInterrupt; split <;> rfl

@[simp] theorem takeInterrupt_mem (s : State) :
    (takeInterrupt s).mem = s.mem := by
  unfold takeInterrupt; split <;> rfl

@[simp] theorem takeInterrupt_routerState (s : State) :
    (takeInterrupt s).routerState = s.routerState := by
  unfold takeInterrupt; split <;> rfl

@[simp] theorem takeInterrupt_cpuScript (s : State) :
    (takeInterrupt s).cpuScript = s.cpuScript := by
  unfold takeInterrupt; split <;> rfl

@[simp] theorem takeInterrupt_port (s : State) :
    (takeInterrupt s).port = s.port := by
  unfold takeInterrupt; split <;> rfl

@[simp] theorem takeInterrupt_inbox (s : State) :
    (takeInterrupt s).inbox = s.inbox := by
  unfold takeInterrupt; split <;> rfl

@[simp] theorem takeInterrupt_draws (s : State) :
    (takeInterrupt s).draws = s.draws := by
  unfold takeInterrupt; split <;> rfl

@[simp] theorem takeInterrupt_current (s : State) :
    (takeInterrupt s).current = s.current := by
  unfold takeInterrupt; split <;> rfl

@[simp] theorem takeInterrupt_cpuByte (s : State) :
    (takeInterrupt s).cpuByte = s.cpuByte := by
  unfold takeInterrupt; split <;> rfl

@[simp] theorem takeInterrupt_reply (s : State) :
    (takeInterrupt s).reply = s.reply := by
  unfold takeInterrupt; split <;> rfl

@[simp] theorem takeInterrupt_outputs (s : State) :
    (takeInterrupt s).outputs = s.outputs := by
  unfold takeInterrupt; split <;> rfl

/-! ### cpuAdvance -/

@[simp] theorem cpuAdvance_committed (s : State) :
    (cpuAdvance s).committed = s.committed := by
  unfold cpuAdvance; split <;> rfl

@[simp] theorem cpuAdvance_ahead (s : State) :
    (cpuAdvance s).ahead = s.ahead := by
  unfold cpuAdvance; split <;> rfl

@[simp] theorem cpuAdvance_seqCounter (s : State) :
    (cpuAdvance s).seqCounter = s.seqCounter := by
  unfold cpuAdvance; split <;> rfl

@[simp] theorem cpuAdvance_events (s : State) :
    (cpuAdvance s).events = s.events := by
  unfold cpuAdvance; split <;> rfl

@[simp] theorem cpuAdvance_openBus (s : State) :
    (cpuAdvance s).openBus = s.openBus := by
  unfold cpuAdvance; split <;> rfl

@[simp] theorem cpuAdvance_cpuState (s : State) :
    (cpuAdvance s).cpuState = s.cpuState := by
  unfold cpuAdvance; split <;> rfl

@[simp] theorem cpuAdvance_gdmaActive (s : State) :
    (cpuAdvance s).gdmaActive = s.gdmaActive := by
  unfold cpuAdvance; split <;> rfl

@[simp] theorem cpuAdvance_stallActive (s : State) :
    (cpuAdvance s).stallActive = s.stallActive := by
  unfold cpuAdvance; split <;> rfl

@[simp] theorem cpuAdvance_stallUntil (s : State) :
    (cpuAdvance s).stallUntil = s.stallUntil := by
  unfold cpuAdvance; split <;> rfl

@[simp] theorem cpuAdvance_memsel (s : State) :
    (cpuAdvance s).memsel = s.memsel := by
  unfold cpuAdvance; split <;> rfl

@[simp] theorem cpuAdvance_fault (s : State) :
    (cpuAdvance s).fault = s.fault := by
  unfold cpuAdvance; split <;> rfl

@[simp] theorem cpuAdvance_channels (s : State) :
    (cpuAdvance s).channels = s.channels := by
  unfold cpuAdvance; split <;> rfl

@[simp] theorem cpuAdvance_mdmaen (s : State) :
    (cpuAdvance s).mdmaen = s.mdmaen := by
  unfold cpuAdvance; split <;> rfl

@[simp] theorem cpuAdvance_hdmaen (s : State) :
    (cpuAdvance s).hdmaen = s.hdmaen := by
  unfold cpuAdvance; split <;> rfl

@[simp] theorem cpuAdvance_gdmaPhase (s : State) :
    (cpuAdvance s).gdmaPhase = s.gdmaPhase := by
  unfold cpuAdvance; split <;> rfl

@[simp] theorem cpuAdvance_gdmaChannel (s : State) :
    (cpuAdvance s).gdmaChannel = s.gdmaChannel := by
  unfold cpuAdvance; split <;> rfl

@[simp] theorem cpuAdvance_gdmaIndex (s : State) :
    (cpuAdvance s).gdmaIndex = s.gdmaIndex := by
  unfold cpuAdvance; split <;> rfl

@[simp] theorem cpuAdvance_dot (s : State) :
    (cpuAdvance s).dot = s.dot := by
  unfold cpuAdvance; split <;> rfl

@[simp] theorem cpuAdvance_scanline (s : State) :
    (cpuAdvance s).scanline = s.scanline := by
  unfold cpuAdvance; split <;> rfl

@[simp] theorem cpuAdvance_hblank (s : State) :
    (cpuAdvance s).hblank = s.hblank := by
  unfold cpuAdvance; split <;> rfl

@[simp] theorem cpuAdvance_vblank (s : State) :
    (cpuAdvance s).vblank = s.vblank := by
  unfold cpuAdvance; split <;> rfl

@[simp] theorem cpuAdvance_field (s : State) :
    (cpuAdvance s).field = s.field := by
  unfold cpuAdvance; split <;> rfl

@[simp] theorem cpuAdvance_nmitimen (s : State) :
    (cpuAdvance s).nmitimen = s.nmitimen := by
  unfold cpuAdvance; split <;> rfl

@[simp] theorem cpuAdvance_htime (s : State) :
    (cpuAdvance s).htime = s.htime := by
  unfold cpuAdvance; split <;> rfl

@[simp] theorem cpuAdvance_vtime (s : State) :
    (cpuAdvance s).vtime = s.vtime := by
  unfold cpuAdvance; split <;> rfl

@[simp] theorem cpuAdvance_nmiFlag (s : State) :
    (cpuAdvance s).nmiFlag = s.nmiFlag := by
  unfold cpuAdvance; split <;> rfl

@[simp] theorem cpuAdvance_nmiPrev (s : State) :
    (cpuAdvance s).nmiPrev = s.nmiPrev := by
  unfold cpuAdvance; split <;> rfl

@[simp] theorem cpuAdvance_nmiRequest (s : State) :
    (cpuAdvance s).nmiRequest = s.nmiRequest := by
  unfold cpuAdvance; split <;> rfl

@[simp] theorem cpuAdvance_irqFlag (s : State) :
    (cpuAdvance s).irqFlag = s.irqFlag := by
  unfold cpuAdvance; split <;> rfl

@[simp] theorem cpuAdvance_autoJoyBusy (s : State) :
    (cpuAdvance s).autoJoyBusy = s.autoJoyBusy := by
  unfold cpuAdvance; split <;> rfl

@[simp] theorem cpuAdvance_joy (s : State) :
    (cpuAdvance s).joy = s.joy := by
  unfold cpuAdvance; split <;> rfl

@[simp] theorem cpuAdvance_joyInput (s : State) :
    (cpuAdvance s).joyInput = s.joyInput := by
  unfold cpuAdvance; split <;> rfl

@[simp] theorem cpuAdvance_wrio (s : State) :
    (cpuAdvance s).wrio = s.wrio := by
  unfold cpuAdvance; split <;> rfl

@[simp] theorem cpuAdvance_latchH (s : State) :
    (cpuAdvance s).latchH = s.latchH := by
  unfold cpuAdvance; split <;> rfl

@[simp] theorem cpuAdvance_latchV (s : State) :
    (cpuAdvance s).latchV = s.latchV := by
  unfold cpuAdvance; split <;> rfl

@[simp] theorem cpuAdvance_latchFlag (s : State) :
    (cpuAdvance s).latchFlag = s.latchFlag := by
  unfold cpuAdvance; split <;> rfl

@[simp] theorem cpuAdvance_ophctFF (s : State) :
    (cpuAdvance s).ophctFF = s.ophctFF := by
  unfold cpuAdvance; split <;> rfl

@[simp] theorem cpuAdvance_opvctFF (s : State) :
    (cpuAdvance s).opvctFF = s.opvctFF := by
  unfold cpuAdvance; split <;> rfl

@[simp] theorem cpuAdvance_frameCounter (s : State) :
    (cpuAdvance s).frameCounter = s.frameCounter := by
  unfold cpuAdvance; split <;> rfl

@[simp] theorem cpuAdvance_frameDone (s : State) :
    (cpuAdvance s).frameDone = s.frameDone := by
  unfold cpuAdvance; split <;> rfl

@[simp] theorem cpuAdvance_paused (s : State) :
    (cpuAdvance s).paused = s.paused := by
  unfold cpuAdvance; split <;> rfl

@[simp] theorem cpuAdvance_cfg (s : State) :
    (cpuAdvance s).cfg = s.cfg := by
  unfold cpuAdvance; split <;> rfl

@[simp] theorem cpuAdvance_regions (s : State) :
    (cpuAdvance s).regions = s.regions := by
  unfold cpuAdvance; split <;> rfl

@[simp] theorem cpuAdvance_mem (s : State) :
    (cpuAdvance s).mem = s.mem := by
  unfold cpuAdvance; split <;> rfl

@[simp] theorem cpuAdvance_routerState (s : State) :
    (cpuAdvance s).routerState = s.routerState := by
  unfold cpuAdvance; split <;> rfl

@[simp] theorem cpuAdvance_inbox (s : State) :
    (cpuAdvance s).inbox = s.inbox := by
  unfold cpuAdvance; split <;> rfl

@[simp] theorem cpuAdvance_draws (s : State) :
    (cpuAdvance s).draws = s.draws := by
  unfold cpuAdvance; split <;> rfl

@[simp] theorem cpuAdvance_current (s : State) :
    (cpuAdvance s).current = s.current := by
  unfold cpuAdvance; split <;> rfl

@[simp] theorem cpuAdvance_cpuByte (s : State) :
    (cpuAdvance s).cpuByte = s.cpuByte := by
  unfold cpuAdvance; split <;> rfl

@[simp] theorem cpuAdvance_reply (s : State) :
    (cpuAdvance s).reply = s.reply := by
  unfold cpuAdvance; split <;> rfl

@[simp] theorem cpuAdvance_outputs (s : State) :
    (cpuAdvance s).outputs = s.outputs := by
  unfold cpuAdvance; split <;> rfl

end Sys2Proof.Machine
end

