-- ==== Sys2Proof/Laws/Access.lean ====
section
/-! SUPPORT. What a bus access can do: the ends of a part of an operation (`Run.Sat`), the block window,
and the fields an access made for a DMA leaves alone. -/

namespace Sys2Proof.Machine

/-! ### The ends of a part of an operation -/

/-- `P` holds of the state if the part goes on, `Q` if it raised a fault. -/
def Run.Sat {α : Type} (P Q : State → Prop) : Run α → Prop
  | .ok _ t => P t
  | .raised t => Q t
  | .stuck _ => True
  | .refused _ => True

@[simp] theorem Run.sat_ok {α : Type} {P Q : State → Prop} {a : α} {t : State} :
    Run.Sat P Q (.ok a t) ↔ P t := Iff.rfl

@[simp] theorem Run.sat_raised {α : Type} {P Q : State → Prop} {t : State} :
    Run.Sat P Q (.raised t : Run α) ↔ Q t := Iff.rfl

@[simp] theorem Run.sat_stuck {α : Type} {P Q : State → Prop} {f : Fault} :
    Run.Sat P Q (.stuck f : Run α) := trivial

@[simp] theorem Run.sat_refused {α : Type} {P Q : State → Prop} {r : Refusal} :
    Run.Sat P Q (.refused r : Run α) := trivial

theorem Run.Sat.bind {α β : Type} {P Q P' Q' : State → Prop} {r : Run α} {k : α → State → Run β}
    (h : Run.Sat P Q r) (hk : ∀ a t, P t → Run.Sat P' Q' (k a t)) (hq : ∀ t, Q t → Q' t) :
    Run.Sat P' Q' (r.bind k) := by
  cases r with
  | ok a t => exact hk a t h
  | raised t => exact hq t h
  | stuck f => trivial
  | refused r => trivial

theorem Run.Sat.mono {α : Type} {P Q P' Q' : State → Prop} {r : Run α} (h : Run.Sat P Q r)
    (hp : ∀ t, P t → P' t) (hq : ∀ t, Q t → Q' t) : Run.Sat P' Q' r := by
  cases r with
  | ok a t => exact hp t h
  | raised t => exact hq t h
  | stuck f => trivial
  | refused r => trivial

theorem Run.Sat.and {α : Type} {P Q P' Q' : State → Prop} {r : Run α} (h : Run.Sat P Q r)
    (h' : Run.Sat P' Q' r) : Run.Sat (fun t => P t ∧ P' t) (fun t => Q t ∧ Q' t) r := by
  cases r with
  | ok a t => exact ⟨h, h'⟩
  | raised t => exact ⟨h, h'⟩
  | stuck f => trivial
  | refused r => trivial

/-- A next state comes from going on or from a fault. -/
theorem Run.outcome_next {r : Run Unit} {t : State} (h : r.outcome = .next t) :
    r = .ok () t ∨ r = .raised t := by
  cases r <;> simp_all [Run.outcome]

theorem Run.Sat.of_next {P : State → Prop} {r : Run Unit} {t : State} (h : Run.Sat P P r)
    (ht : r.outcome = .next t) : P t := by
  rcases Run.outcome_next ht with rfl | rfl <;> exact h

/-- In the fault state an operation changes nothing; else it is what it is. -/
theorem unlessFaulted_next {s t : State} {r : Run Unit} (h : unlessFaulted s r = .next t) :
    t = s ∨ (s.fault = none ∧ r.outcome = .next t) := by
  unfold unlessFaulted at h
  split at h
  · cases h; exact .inl rfl
  · simp_all

theorem unlessFaulted_live {s : State} (hs : s.fault = none) (r : Run Unit) : unlessFaulted s r = r.outcome := by
  simp [unlessFaulted, hs]

theorem unlessFaulted_faulted {s : State} (hs : s.fault ≠ none) (r : Run Unit) : unlessFaulted s r = .next s := by
  simp [unlessFaulted, Option.isSome_iff_ne_none, hs]

/-! ### The block window -/

/-- A place of the window is found only at an offset of the map. -/
theorem regOfOffset_offset {o : Nat} {r : Reg} (h : regOfOffset o = some r) : r.offset = o := by
  unfold regOfOffset at h
  split at h
  · rename_i ho
    cases hf : chanRegs.find? (fun r => r.number == o % 16) with
    | none => rw [hf] at h; cases h
    | some x =>
      rw [hf] at h
      simp only [Option.map_some, Option.some.injEq] at h
      subst h
      have hx := List.find?_some hf
      simp only [beq_iff_eq] at hx
      simp only [Reg.offset, hx, Fin.ofNat]
      omega
  · split at h
    · rename_i ho
      simp only [Option.some.injEq] at h
      subst h
      simp only [Reg.offset, BitVec.toNat_ofNat]
      omega
    · cases hf : portRegs.find? (fun p => p.offset == o) with
      | none => rw [hf] at h; cases h
      | some x =>
        rw [hf] at h
        simp only [Option.map_some, Option.some.injEq] at h
        subst h
        simpa [Reg.offset] using List.find?_some hf

/-- Every place of the window is found at its own offset. -/
theorem regOfOffset_self (r : Reg) : regOfOffset r.offset = some r := by
  cases r with
  | port p => cases p <;> decide
  | chan c r => revert c; cases r <;> decide
  | tail low => revert low; decide

theorem offset_lt (r : Reg) : r.offset < 2 ^ 16 := by
  cases r with
  | port p => cases p <;> decide
  | chan c r => revert c; cases r <;> decide
  | tail low => simp only [Reg.offset]; omega

/-- Every place of the window lies in `$2137..$213F` or `$4200..$43FF`. -/
theorem offset_range (r : Reg) :
    (0x2137 ≤ r.offset ∧ r.offset ≤ 0x213F) ∨ (0x4200 ≤ r.offset ∧ r.offset ≤ 0x43FF) := by
  cases r with
  | port p => cases p <;> decide
  | chan c r => revert c; cases r <;> decide
  | tail low => simp only [Reg.offset]; omega

theorem windowReg_eq_some {a : Addr} {r : Reg} :
    windowReg a = some r ↔ a.getLsbD 22 = false ∧ a.toNat % 2 ^ 16 = r.offset := by
  unfold windowReg
  constructor
  · intro h
    split at h
    · cases h
    · exact ⟨Bool.eq_false_iff.2 ‹_›, (regOfOffset_offset h).symm⟩
  · rintro ⟨hb, ho⟩
    rw [if_neg (Bool.eq_false_iff.1 hb), ho]
    exact regOfOffset_self r

/-- A DMA A-bus access that is not refused lies outside the window (R103). -/
theorem windowReg_of_not_dmaRegWindow {a : Addr} (h : dmaRegWindow a = false) : windowReg a = none := by
  cases hw : windowReg a with
  | none => rfl
  | some r =>
    obtain ⟨hb, ho⟩ := windowReg_eq_some.1 hw
    have := offset_range r
    rw [← ho] at this
    simp only [dmaRegWindow, hb] at h
    simp at h
    omega

/-- The registers a B-bus access can reach (R94). -/
abbrev LatchReg (r : Reg) : Prop :=
  r = .port .slhv ∨ r = .port .ophct ∨ r = .port .opvct ∨ r = .port .stat78

theorem latchReg_of_bBus {b : Byte} {r : Reg} (h : windowReg (bBusAddr b) = some r) : LatchReg r := by
  have hb : ∀ b : Byte, windowReg (bBusAddr b) = none ∨ (∃ r, windowReg (bBusAddr b) = some r ∧ LatchReg r) := by
    intro b
    by_cases h1 : b = 0x37
    · subst h1; exact .inr ⟨.port .slhv, by decide, by simp [LatchReg]⟩
    by_cases h2 : b = 0x3C
    · subst h2; exact .inr ⟨.port .ophct, by decide, by simp [LatchReg]⟩
    by_cases h3 : b = 0x3D
    · subst h3; exact .inr ⟨.port .opvct, by decide, by simp [LatchReg]⟩
    by_cases h4 : b = 0x3F
    · subst h4; exact .inr ⟨.port .stat78, by decide, by simp [LatchReg]⟩
    left
    revert b
    decide +revert
  rcases hb b with hn | ⟨q, hq, hl⟩
  · rw [hn] at h; cases h
  · rw [hq] at h; cases h; exact hl

/-! ### What a DMA access leaves alone -/

/-- The state with everything blanked that an access made for a DMA can change: the byte on the bus, router
memory, the peripherals' state and what they were sent, the free values used, the counter latch, and a fault. -/
def blankAccess (s : State) : State :=
  { s with
    openBus := 0, mem := [], routerState := 0, outputs := [], draws := 0, fault := none, latchH := 0, latchV := 0, latchFlag := false,
    ophctFF := false, opvctFF := false }

/-- `t` differs from `s` only where a DMA access may change it. -/
abbrev AccessKeeps (s t : State) : Prop := blankAccess t = blankAccess s

/-- A block fault raised by an access or a transfer, not by an invariant check. -/
abbrev TransferFault (t : State) : Prop := ∃ f, t.fault = some f ∧ f.code ≠ .invariant

/-- How the canonical form of memory goes through a part of an operation. -/
abbrev MemoryKept (s t : State) : Prop := MemoryWf s.mem → MemoryWf t.mem

theorem routerMemRead_sat (a : Addr) (s : State) :
    Run.Sat (fun t => AccessKeeps s t ∧ t.fault = s.fault ∧ t.mem = s.mem)
      (fun t => AccessKeeps s t ∧ TransferFault t ∧ t.mem = s.mem) (routerMemRead a s) := by
  unfold routerMemRead routerRead
  cases regionKind s a with
  | none => exact ⟨rfl, rfl, rfl⟩
  | some k =>
    cases k with
    | chip => exact ⟨rfl, ⟨_, rfl, by simp⟩, rfl⟩
    | device =>
      simp only
      cases Config.routerRead s.routerState a with
      | fatalChip => exact ⟨rfl, ⟨_, rfl, by simp⟩, rfl⟩
      | mapped v => exact ⟨rfl, rfl, rfl⟩
      | unmapped => exact ⟨rfl, rfl, rfl⟩
    | ram | rom | writeOnly => exact ⟨rfl, rfl, rfl⟩

theorem routerMemWrite_sat (a : Addr) (v : Byte) (s : State) :
    Run.Sat (fun t => AccessKeeps s t ∧ t.fault = s.fault ∧ MemoryKept s t)
      (fun t => AccessKeeps s t ∧ TransferFault t ∧ MemoryKept s t) (routerMemWrite a v s) := by
  unfold routerMemWrite routerWrite
  cases regionKind s a with
  | none => exact ⟨rfl, rfl, id⟩
  | some k =>
    cases k with
    | chip => exact ⟨rfl, ⟨_, rfl, by simp⟩, id⟩
    | ram => exact ⟨rfl, rfl, fun h => MemoryWf.writeByte h (location_lt s a) v⟩
    | device =>
      simp only
      cases Config.routerWrite s.routerState a v with
      | fatalChip => exact ⟨rfl, ⟨_, rfl, by simp⟩, id⟩
      | done => exact ⟨rfl, rfl, id⟩
      | unmapped => exact ⟨rfl, rfl, id⟩
    | rom | writeOnly => exact ⟨rfl, rfl, id⟩

theorem blockRead_latch {r : Reg} (h : LatchReg r) (s : State) :
    AccessKeeps s (blockRead r s).2 ∧ (blockRead r s).2.fault = s.fault ∧ (blockRead r s).2.mem = s.mem := by
  rcases h with rfl | rfl | rfl | rfl
  · simp only [blockRead, readSlhv]; split <;> exact ⟨rfl, rfl, rfl⟩
  · simp only [blockRead, readOphct]; split <;> exact ⟨rfl, rfl, rfl⟩
  · simp only [blockRead, readOpvct]; split <;> exact ⟨rfl, rfl, rfl⟩
  · exact ⟨rfl, rfl, rfl⟩

theorem blockWrite_latch {r : Reg} (h : LatchReg r) (a : Addr) (v : Byte) (s : State) : blockWrite a v r s = s := by
  rcases h with rfl | rfl | rfl | rfl <;> rfl

/-- Reading a B-bus register. -/
theorem bRead_sat (b : Byte) (s : State) :
    Run.Sat (fun t => AccessKeeps s t ∧ t.fault = s.fault ∧ MemoryKept s t)
      (fun t => AccessKeeps s t ∧ TransferFault t ∧ MemoryKept s t) (bRead b s) := by
  unfold bRead memRead
  cases h : windowReg (bBusAddr b) with
  | none =>
    exact (routerMemRead_sat _ s).mono (fun t ⟨h1, h2, h3⟩ => ⟨h1, h2, fun h => h3 ▸ h⟩)
      fun t ⟨h1, h2, h3⟩ => ⟨h1, h2, fun h => h3 ▸ h⟩
  | some r =>
    obtain ⟨h1, h2, h3⟩ := blockRead_latch (latchReg_of_bBus h) s
    refine ⟨?_, by simpa using h2, fun hm => by simpa [h3] using hm⟩
    rw [AccessKeeps, ← h1]
    rfl

/-- Writing a B-bus register. -/
theorem bWrite_sat (b : Byte) (v : Byte) (s : State) :
    Run.Sat (fun t => AccessKeeps s t ∧ t.fault = s.fault ∧ MemoryKept s t)
      (fun t => AccessKeeps s t ∧ TransferFault t ∧ MemoryKept s t) (bWrite b v s) := by
  unfold bWrite memWrite
  cases h : windowReg (bBusAddr b) with
  | none => exact routerMemWrite_sat _ v (driveBus v s)
  | some r =>
    simp only [blockWrite_latch (latchReg_of_bBus h)]
    exact ⟨rfl, rfl, id⟩

/-- A DMA A-bus read outside the refused windows. -/
theorem dmaRead_sat {a : Addr} (ha : dmaRegWindow a = false) (s : State) :
    Run.Sat (fun t => AccessKeeps s t ∧ t.fault = s.fault ∧ MemoryKept s t)
      (fun t => AccessKeeps s t ∧ TransferFault t ∧ MemoryKept s t) (memRead a s) := by
  unfold memRead
  rw [windowReg_of_not_dmaRegWindow ha]
  exact (routerMemRead_sat _ s).mono (fun t ⟨h1, h2, h3⟩ => ⟨h1, h2, fun h => h3 ▸ h⟩)
    fun t ⟨h1, h2, h3⟩ => ⟨h1, h2, fun h => h3 ▸ h⟩

/-- A DMA A-bus write outside the refused windows. -/
theorem dmaWrite_sat {a : Addr} (ha : dmaRegWindow a = false) (v : Byte) (s : State) :
    Run.Sat (fun t => AccessKeeps s t ∧ t.fault = s.fault ∧ MemoryKept s t)
      (fun t => AccessKeeps s t ∧ TransferFault t ∧ MemoryKept s t) (memWrite a v s) := by
  unfold memWrite
  rw [windowReg_of_not_dmaRegWindow ha]
  exact routerMemWrite_sat a v (driveBus v s)

/-- One byte moved by a DMA: what it leaves alone. -/
theorem moveByte_sat (ch : Channel) {a : Addr} (ha : dmaRegWindow a = false) (b : Byte) (s : State) :
    Run.Sat (fun t => AccessKeeps s t ∧ t.fault = s.fault ∧ MemoryKept s t)
      (fun t => AccessKeeps s t ∧ TransferFault t ∧ MemoryKept s t) (moveByte ch a b s) := by
  unfold moveByte
  split
  · exact (bRead_sat b s).bind
      (fun v t ⟨h1, h2, h3⟩ => (dmaWrite_sat ha v t).mono
        (fun u ⟨g1, g2, g3⟩ => ⟨g1.trans h1, g2.trans h2, fun h => g3 (h3 h)⟩)
        fun u ⟨g1, g2, g3⟩ => ⟨g1.trans h1, g2, fun h => g3 (h3 h)⟩)
      fun t h => h
  · exact (dmaRead_sat ha s).bind
      (fun v t ⟨h1, h2, h3⟩ => (bWrite_sat b v t).mono
        (fun u ⟨g1, g2, g3⟩ => ⟨g1.trans h1, g2.trans h2, fun h => g3 (h3 h)⟩)
        fun u ⟨g1, g2, g3⟩ => ⟨g1.trans h1, g2, fun h => g3 (h3 h)⟩)
      fun t h => h

end Sys2Proof.Machine
end

