-- ==== Sys2Proof/Laws/Events.lean ====
section
/-! SUPPORT. Events and the queue: reading an event after an update, the order and the contents of the
queue, its head, and what "due" means. -/

namespace Sys2Proof.Machine

/-! ### Events -/

@[simp] theorem getEvent_setEvent_same (es : Events) (e : EventId) (v : Event) :
    getEvent (setEvent es e v) e = v := by cases e <;> rfl

theorem getEvent_setEvent_other (es : Events) {e f : EventId} (v : Event) (h : f ≠ e) :
    getEvent (setEvent es e v) f = getEvent es f := by cases e <;> cases f <;> first | rfl | exact absurd rfl h

@[simp] theorem event_scheduleAt_same (e : EventId) (t : Nat) (s : State) :
    event (scheduleAt e t s) e = { when := t, seq := s.seqCounter, queued := true } := by simp [event]

theorem event_scheduleAt_other {e f : EventId} (t : Nat) (s : State) (h : f ≠ e) :
    event (scheduleAt e t s) f = event s f := by simp [event, getEvent_setEvent_other _ _ h]

theorem event_scheduleAt (e f : EventId) (t : Nat) (s : State) :
    event (scheduleAt e t s) f =
      if f = e then { when := t, seq := s.seqCounter, queued := true } else event s f := by
  split
  · subst f; simp
  · rename_i h; exact event_scheduleAt_other t s h

@[simp] theorem event_deschedule_same (e : EventId) (s : State) :
    event (deschedule e s) e = { event s e with queued := false } := by simp [event]

theorem event_deschedule_other {e f : EventId} (s : State) (h : f ≠ e) :
    event (deschedule e s) f = event s f := by simp [event, getEvent_setEvent_other _ _ h]

theorem event_deschedule (e f : EventId) (s : State) :
    event (deschedule e s) f = if f = e then { event s e with queued := false } else event s f := by
  split
  · subst f; simp
  · rename_i h; exact event_deschedule_other s h

/-- An event depends on the field `events` alone. -/
theorem event_congr {s t : State} (h : t.events = s.events) (e : EventId) : event t e = event s e := by
  simp [event, h]

/-! ### The queue -/

/-- The key order, spelled out (R33). -/
theorem firesBefore_iff (s : State) (e f : EventId) :
    firesBefore s e f = true ↔
      (event s e).when < (event s f).when ∨
        ((event s e).when = (event s f).when ∧
          (priority s.cfg e < priority s.cfg f ∨
            (priority s.cfg e = priority s.cfg f ∧ (event s e).seq < (event s f).seq))) := by
  simp [firesBefore]

theorem mem_insertEvent (s : State) (e x : EventId) (l : List EventId) :
    x ∈ insertEvent s e l ↔ x = e ∨ x ∈ l := by
  induction l with
  | nil => simp [insertEvent]
  | cons f rest ih => simp only [insertEvent]; split <;> simp [ih]; tauto

theorem mem_foldr_insertEvent (s : State) (x : EventId) (l : List EventId) :
    x ∈ l.foldr (insertEvent s) [] ↔ x ∈ l := by
  induction l with
  | nil => simp
  | cons f rest ih => simp [mem_insertEvent, ih]

/-- The queue holds exactly the queued events (R33). -/
theorem mem_queue (s : State) (e : EventId) : e ∈ queue s ↔ (event s e).queued = true := by
  simp only [queue, mem_foldr_insertEvent, List.mem_filter]
  cases e <;> simp [allEvents]

theorem sorted_insertEvent (s : State) (e : EventId) (l : List EventId)
    (h : l.Pairwise fun a b => firesBefore s b a = false) :
    (insertEvent s e l).Pairwise fun a b => firesBefore s b a = false := by
  induction l with
  | nil => simp [insertEvent]
  | cons f rest ih =>
    obtain ⟨hf, hrest⟩ := List.pairwise_cons.1 h
    simp only [insertEvent]
    split
    · rename_i hfe
      refine List.pairwise_cons.2 ⟨fun x hx => ?_, ih hrest⟩
      rcases (mem_insertEvent s e x rest).1 hx with rfl | hx
      · rw [← Bool.not_eq_true, firesBefore_iff]
        rw [firesBefore_iff] at hfe
        omega
      · exact hf x hx
    · rename_i hfe
      refine List.pairwise_cons.2 ⟨fun x hx => ?_, h⟩
      rcases List.mem_cons.1 hx with rfl | hx
      · simpa using hfe
      · have := hf x hx
        rw [← Bool.not_eq_true, firesBefore_iff] at *
        omega

/-- The queue is in ascending key order (R33, R160). -/
theorem queue_sorted (s : State) : (queue s).Pairwise fun a b => firesBefore s b a = false := by
  have : ∀ l : List EventId, (l.foldr (insertEvent s) []).Pairwise fun a b => firesBefore s b a = false := by
    intro l
    induction l with
    | nil => simp
    | cons e rest ih => exact sorted_insertEvent s e _ ih
  exact this _

/-- The head of the queue is queued, and no queued event fires before it. -/
theorem queue_head {s : State} {e : EventId} (h : (queue s).head? = some e) :
    (event s e).queued = true ∧ ∀ f, (event s f).queued = true → firesBefore s f e = false := by
  cases hq : queue s with
  | nil => rw [hq] at h; cases h
  | cons d rest =>
    rw [hq] at h
    cases h
    refine ⟨(mem_queue s e).1 (by simp [hq]), fun f hf => ?_⟩
    have hm := (mem_queue s f).2 hf
    have hs := queue_sorted s
    rw [hq] at hm hs
    rcases List.mem_cons.1 hm with rfl | hm
    · rw [← Bool.not_eq_true, firesBefore_iff]; omega
    · exact (List.pairwise_cons.1 hs).1 f hm

/-- No event of the queue is earlier than its head. -/
theorem queue_head_when {s : State} {e : EventId} (h : (queue s).head? = some e) (f : EventId)
    (hf : (event s f).queued = true) : (event s e).when ≤ (event s f).when := by
  have := (queue_head h).2 f hf
  rw [← Bool.not_eq_true, firesBefore_iff] at this
  omega

/-- The queue is empty exactly when nothing is queued. -/
theorem queue_head_none {s : State} (h : (queue s).head? = none) (e : EventId) : (event s e).queued = false := by
  rw [← Bool.not_eq_true, ← mem_queue, List.head?_eq_none_iff.1 h]
  simp

/-- `AnyEventDue` says that some queued event has `when <= now` (R167). -/
theorem anyEventDue_iff (s : State) :
    anyEventDue s = true ↔ ∃ e, (event s e).queued = true ∧ (event s e).when ≤ now s := by
  unfold anyEventDue horizon
  cases h : (queue s).head? with
  | none => simpa using fun e he => absurd he (by simp [queue_head_none h e])
  | some e =>
    simp only [Option.map_some, decide_eq_true_eq]
    exact ⟨fun hle => ⟨e, (queue_head h).1, hle⟩, fun ⟨f, hf, hle⟩ => Nat.le_trans (queue_head_when h f hf) hle⟩

/-- Nothing is due at `committed` exactly when every queued event is later. -/
theorem dueEvent_none_iff (s : State) :
    dueEvent s = none ↔ ∀ e, (event s e).queued = true → s.committed < (event s e).when := by
  unfold dueEvent
  cases h : (queue s).head? with
  | none => simpa using fun e he => absurd he (by simp [queue_head_none h e])
  | some e =>
    simp only
    split
    · rename_i hle
      simp only [reduceCtorEq, false_iff, not_forall]
      exact ⟨e, (queue_head h).1, by omega⟩
    · rename_i hle
      simp only [true_iff]
      intro f hf
      have := queue_head_when h f hf
      omega

/-- The event a drain fires next is queued, due, and first in key order (R168, R171). -/
theorem dueEvent_some {s : State} {e : EventId} (h : dueEvent s = some e) :
    (event s e).queued = true ∧ (event s e).when ≤ s.committed ∧
      ∀ f, (event s f).queued = true → firesBefore s f e = false := by
  unfold dueEvent at h
  cases hq : (queue s).head? with
  | none => rw [hq] at h; cases h
  | some d =>
    rw [hq] at h
    simp only at h
    split at h
    · cases h
      exact ⟨(queue_head hq).1, ‹_›, (queue_head hq).2⟩
    · cases h

/-- The horizon is the `when` of a queued event, the least one. -/
theorem horizon_some {s : State} {h : Nat} (hh : horizon s = some h) :
    (∃ e, (event s e).queued = true ∧ (event s e).when = h) ∧ ∀ f, (event s f).queued = true → h ≤ (event s f).when := by
  unfold horizon at hh
  cases hq : (queue s).head? with
  | none => rw [hq] at hh; cases hh
  | some d =>
    rw [hq] at hh
    simp only [Option.map_some, Option.some.injEq] at hh
    subst hh
    exact ⟨⟨d, (queue_head hq).1, rfl⟩, queue_head_when hq⟩

/-- With an event queued there is a horizon. -/
theorem horizon_isSome {s : State} {e : EventId} (h : (event s e).queued = true) : ∃ t, horizon s = some t := by
  unfold horizon
  cases hq : (queue s).head? with
  | none => simp [queue_head_none hq e] at h
  | some d => exact ⟨_, rfl⟩

/-! ### What the queue reads -/

theorem insertEvent_congr {s t : State} (he : t.events = s.events) (hc : t.cfg = s.cfg) (e : EventId) (l : List EventId) :
    insertEvent t e l = insertEvent s e l := by
  induction l with
  | nil => rfl
  | cons f rest ih =>
    have hf : firesBefore t f e = firesBefore s f e := by
      rw [Bool.eq_iff_iff, firesBefore_iff, firesBefore_iff]; simp only [event, he, hc]
    simp only [insertEvent, ih, hf]

/-- The queue depends on the events and the priorities alone. -/
theorem queue_congr {s t : State} (he : t.events = s.events) (hc : t.cfg = s.cfg) : queue t = queue s := by
  have hi : insertEvent t = insertEvent s := by funext e l; exact insertEvent_congr he hc e l
  simp [queue, event, he, hi]

theorem horizon_congr {s t : State} (he : t.events = s.events) (hc : t.cfg = s.cfg) : horizon t = horizon s := by
  simp [horizon, queue_congr he hc, event, he]

theorem anyEventDue_congr {s t : State} (he : t.events = s.events) (hc : t.cfg = s.cfg) (hn : now t = now s) :
    anyEventDue t = anyEventDue s := by
  simp [anyEventDue, horizon_congr he hc, hn]

/-- The grant depends on nothing of the CPU but whether it runs (R193). -/
theorem granted_congr {s t : State} (he : t.events = s.events) (hc : t.cfg = s.cfg) (hn : now t = now s)
    (hf : t.fault = s.fault) (hs : t.cpuState = s.cpuState) (hb : busBlock t = busBlock s) : granted t = granted s := by
  simp [granted, anyEventDue_congr he hc hn, hf, hs, hb]

/-- The grant, clause by clause (R193). -/
theorem granted_iff (s : State) :
    granted s = true ↔ s.fault = none ∧ s.cpuState = .running ∧ anyEventDue s = false ∧ busBlock s = false := by
  cases hf : s.fault <;> simp [granted, hf, and_assoc]

/-- With nothing queued there is no horizon (R166). -/
theorem horizon_none {s : State} (h : ∀ e, (event s e).queued = false) : horizon s = none := by
  simp [horizon, queue, allEvents, h]

end Sys2Proof.Machine
end

