-- ==== Sys2Proof/Laws/Transfers.lean ====
section
/-! SUPPORT. What the transfers can do: the fields and the channel registers an HDMA reload or burst leaves
alone, and what a stall does. -/

namespace Sys2Proof.Machine

@[simp] theorem channel_setChannel_same (c : Chan) (ch : Channel) (s : State) : channel (setChannel c ch s) c = ch := by
  simp [channel, setChannel]

theorem channel_setChannel_other {c d : Chan} (ch : Channel) (s : State) (h : d ≠ c) :
    channel (setChannel c ch s) d = channel s d := by
  simp only [channel, setChannel]
  exact Vector.getElem_set_ne (h := fun e => h (Fin.ext e.symm)) ..

theorem channel_setChannel (c d : Chan) (ch : Channel) (s : State) :
    channel (setChannel c ch s) d = if d = c then ch else channel s d := by
  split
  · subst d; simp
  · rename_i h; exact channel_setChannel_other ch s h

theorem channel_congr {s t : State} (h : t.channels = s.channels) (c : Chan) : channel t c = channel s c := by
  simp [channel, h]

/-- The registers of a channel that no transfer changes: DMAP, BBAD, A1B, DASB, UNUSED (R298, R144, R252). -/
abbrev FixedRegisters (x y : Channel) : Prop :=
  y.dmap = x.dmap ∧ y.bbad = x.bbad ∧ y.a1b = x.a1b ∧ y.dasb = x.dasb ∧ y.unused = x.unused

/-- The state with everything blanked that a transfer can change, its event and phase apart. -/
def blankTransfer (s : State) : State :=
  { blankAccess s with channels := Vector.replicate 8 Channel.reset, mdmaen := 0 }

/-- `t` differs from `s` only where the byte moves and channel updates of a transfer may change it. -/
structure TransferKeeps (s t : State) : Prop where
  rest     : blankTransfer t = blankTransfer s
  channels : ∀ c, FixedRegisters (channel s c) (channel t c)
  memory   : MemoryKept s t

theorem TransferKeeps.refl (s : State) : TransferKeeps s s := ⟨rfl, fun _ => by simp [FixedRegisters], id⟩

theorem TransferKeeps.trans {s t u : State} (h : TransferKeeps s t) (g : TransferKeeps t u) : TransferKeeps s u where
  rest := g.rest.trans h.rest
  channels c := by
    obtain ⟨a1, a2, a3, a4, a5⟩ := h.channels c
    obtain ⟨b1, b2, b3, b4, b5⟩ := g.channels c
    exact ⟨b1.trans a1, b2.trans a2, b3.trans a3, b4.trans a4, b5.trans a5⟩
  memory hm := g.memory (h.memory hm)

theorem TransferKeeps.of_access {s t : State} (h : AccessKeeps s t) (hm : MemoryKept s t) : TransferKeeps s t where
  rest := by
    have : blankTransfer t = { blankAccess t with channels := Vector.replicate 8 Channel.reset, mdmaen := 0 } := rfl
    rw [this, h]
    rfl
  channels c := by
    have : t.channels = s.channels := by have e := congrArg State.channels h; exact e
    rw [channel_congr this]
    simp [FixedRegisters]
  memory := hm

theorem TransferKeeps.setChannel {s : State} {c : Chan} {ch : Channel} (h : FixedRegisters (channel s c) ch) :
    TransferKeeps s (setChannel c ch s) where
  rest := rfl
  channels d := by
    rw [channel_setChannel]
    split
    · subst d; exact h
    · simp [FixedRegisters]
  memory := id

theorem TransferKeeps.disableGdma (c : Chan) (s : State) : TransferKeeps s (disableGdma c s) :=
  ⟨rfl, fun _ => by simp [FixedRegisters, channel], id⟩

/-- Every end of a part of a transfer: going on changes nothing else and raises nothing; a fault is an
enhancement-chip or a pattern fault. -/
abbrev TransferSat {α : Type} (s : State) (r : Run α) : Prop :=
  Run.Sat (fun t => TransferKeeps s t ∧ t.fault = s.fault) (fun t => TransferKeeps s t ∧ TransferFault t) r

theorem TransferSat.bind {α β : Type} {s : State} {r : Run α} {k : α → State → Run β} (h : TransferSat s r)
    (hk : ∀ a t, TransferSat t (k a t)) : TransferSat s (r.bind k) :=
  Run.Sat.bind h
    (fun a t ⟨h1, h2⟩ => (hk a t).mono (fun _ ⟨g1, g2⟩ => ⟨h1.trans g1, g2.trans h2⟩)
      fun _ ⟨g1, g2⟩ => ⟨h1.trans g1, g2⟩)
    fun _ h => h

theorem TransferSat.step {α : Type} {s t : State} {r : Run α} (h : TransferKeeps s t) (hf : t.fault = s.fault)
    (hr : TransferSat t r) : TransferSat s r :=
  hr.mono (fun _ ⟨g1, g2⟩ => ⟨h.trans g1, g2.trans hf⟩) fun _ ⟨g1, g2⟩ => ⟨h.trans g1, g2⟩

theorem TransferSat.of_access {α : Type} {s : State} {r : Run α}
    (h : Run.Sat (fun t => AccessKeeps s t ∧ t.fault = s.fault ∧ MemoryKept s t)
      (fun t => AccessKeeps s t ∧ TransferFault t ∧ MemoryKept s t) r) : TransferSat s r :=
  h.mono (fun _ ⟨h1, h2, h3⟩ => ⟨.of_access h1 h3, h2⟩) fun _ ⟨h1, h2, h3⟩ => ⟨.of_access h1 h3, h2⟩

theorem raiseFault_sat {α : Type} {code : FaultCode} (info : FaultInfo) (s : State) (h : code ≠ .invariant) :
    TransferSat s (raiseFault code info s : Run α) :=
  ⟨⟨rfl, fun _ => by simp [FixedRegisters, channel], id⟩, _, rfl, h⟩

/-! ### HDMA -/

theorem hdmaFetch_sat (c : Chan) (s : State) : TransferSat s (hdmaFetch c s) := by
  unfold hdmaFetch
  simp only
  split
  · trivial
  · rename_i ha
    exact TransferSat.bind (.of_access (dmaRead_sat (Bool.eq_false_iff.2 ha) s)) fun v t =>
      ⟨.setChannel (by simp [FixedRegisters]), rfl⟩

theorem hdmaPointer_sat (c : Chan) (s : State) : TransferSat s (hdmaPointer c s) := by
  unfold hdmaPointer
  exact (hdmaFetch_sat c s).bind fun lo t => (hdmaFetch_sat c t).bind fun hi u =>
    ⟨.setChannel (by simp [FixedRegisters, markWritten]), rfl⟩

theorem hdmaHeader_sat (c : Chan) (h : Byte) (s : State) : TransferSat s (hdmaHeader c h s) := by
  have h0 : TransferKeeps s (setChannel c (markWritten 10 { channel s c with ntrl := h }) s) :=
    .setChannel (by simp [FixedRegisters, markWritten])
  unfold hdmaHeader
  simp only
  split
  · exact ⟨h0.trans (.setChannel (by simp [FixedRegisters])), rfl⟩
  · split
    · exact TransferSat.step h0 rfl ((hdmaPointer_sat c _).bind fun _ t => ⟨.setChannel (by simp [FixedRegisters]), rfl⟩)
    · exact ⟨h0.trans (.setChannel (by simp [FixedRegisters])), rfl⟩

theorem hdmaReload_sat (c : Chan) (s : State) : TransferSat s (hdmaReload c s) := by
  unfold hdmaReload
  split
  · trivial
  · exact (hdmaFetch_sat c s).bind fun h t => hdmaHeader_sat c h t

theorem hdmaDataAddr_sat (c : Chan) (s : State) : TransferSat s (hdmaDataAddr c s) := by
  unfold hdmaDataAddr
  simp only
  split
  · split
    · trivial
    · exact ⟨.setChannel (by simp [FixedRegisters]), rfl⟩
  · exact ⟨.setChannel (by simp [FixedRegisters]), rfl⟩

theorem hdmaByte_sat (c : Chan) (i : Nat) (s : State) : TransferSat s (hdmaByte c i s) := by
  unfold hdmaByte
  simp only
  refine (hdmaDataAddr_sat c s).bind fun a t => ?_
  split
  · trivial
  · rename_i ha
    exact .of_access (moveByte_sat _ (Bool.eq_false_iff.2 ha) _ t)

theorem hdmaBytes_sat (c : Chan) (n : Nat) : ∀ (i : Nat) (s : State), TransferSat s (hdmaBytes c i n s) := by
  induction n with
  | zero => exact fun i s => ⟨.refl s, rfl⟩
  | succ n ih => exact fun i s => (hdmaByte_sat c i s).bind fun _ t => ih (i + 1) t

theorem hdmaUnit_sat (c : Chan) (s : State) : TransferSat s (hdmaUnit c s) := by
  unfold hdmaUnit
  simp only
  split
  · trivial
  · split
    · exact raiseFault_sat _ s (by simp)
    · exact (hdmaBytes_sat c _ 0 s).bind fun _ t => ⟨.refl t, rfl⟩

theorem forChannels_sat {f : Chan → Burst → State → Run Burst} (hf : ∀ c b s, TransferSat s (f c b s))
    (l : List Chan) : ∀ (b : Burst) (s : State), TransferSat s (forChannels f l b s) := by
  induction l with
  | nil => exact fun b s => ⟨.refl s, rfl⟩
  | cons c rest ih => exact fun b s => (hf c b s).bind fun b' t => ih b' t

theorem hdmaInitChannel_sat (c : Chan) (b : Burst) (s : State) : TransferSat s (hdmaInitChannel c b s) := by
  unfold hdmaInitChannel
  simp only
  split
  · split
    · trivial
    · refine TransferSat.step ((TransferKeeps.disableGdma c s).trans (.setChannel ?_)) rfl
        ((hdmaReload_sat c _).bind fun _ t => ⟨.refl t, rfl⟩)
      simp [FixedRegisters, markWritten, channel]
  · exact ⟨.setChannel (by simp [FixedRegisters]), rfl⟩

theorem hdmaUnitStep_sat (c : Chan) (s : State) : TransferSat s (hdmaUnitStep c s) := by
  unfold hdmaUnitStep
  split
  · exact hdmaUnit_sat c s
  · exact ⟨.refl s, rfl⟩

theorem hdmaCount_sat (c : Chan) (s : State) : TransferSat s (hdmaCount c s) := by
  have h0 : TransferKeeps s (setChannel c { channel s c with
      ntrl := (channel s c).ntrl - 1, hdmaDoTransfer := ((channel s c).ntrl - 1).getLsbD 7 } s) :=
    .setChannel (by simp [FixedRegisters])
  unfold hdmaCount
  simp only
  split
  · exact TransferSat.step h0 rfl (hdmaReload_sat c _)
  · exact ⟨h0, rfl⟩

theorem hdmaLineChannel_sat (c : Chan) (b : Burst) (s : State) : TransferSat s (hdmaLineChannel c b s) := by
  unfold hdmaLineChannel
  split
  · exact (hdmaUnitStep_sat c s).bind fun _ t => (hdmaCount_sat c t).bind fun _ u => ⟨.refl u, rfl⟩
  · exact ⟨.refl s, rfl⟩

/-! ### Stalls -/

/-- The state with everything blanked that a stall or a reload or burst can change. -/
def blankHdma (s : State) : State :=
  { blankTransfer s with events := State.reset.events, seqCounter := 0, stallUntil := 0, stallActive := false }

/-- What a reload, a burst or a stall leaves alone: the fields, the fixed registers, the other events, whether
EV_DMA is queued, R67 (b), and memory's form. -/
structure HdmaKeeps (s t : State) : Prop where
  rest     : blankHdma t = blankHdma s
  channels : ∀ c, FixedRegisters (channel s c) (channel t c)
  memory   : MemoryKept s t
  irq      : event t .irq = event s .irq
  video    : event t .video = event s .video
  joy      : event t .joy = event s .joy
  dma      : (event t .dma).queued = (event s .dma).queued
  stall    : (s.stallActive = true ↔ (event s .stall).queued = true ∧ (event s .stall).when = s.stallUntil) →
    (t.stallActive = true ↔ (event t .stall).queued = true ∧ (event t .stall).when = t.stallUntil)

theorem HdmaKeeps.refl (s : State) : HdmaKeeps s s :=
  ⟨rfl, fun _ => by simp [FixedRegisters], id, rfl, rfl, rfl, rfl, id⟩

theorem HdmaKeeps.trans {s t u : State} (h : HdmaKeeps s t) (g : HdmaKeeps t u) : HdmaKeeps s u where
  rest := g.rest.trans h.rest
  channels c := by
    obtain ⟨a1, a2, a3, a4, a5⟩ := h.channels c
    obtain ⟨b1, b2, b3, b4, b5⟩ := g.channels c
    exact ⟨b1.trans a1, b2.trans a2, b3.trans a3, b4.trans a4, b5.trans a5⟩
  memory hm := g.memory (h.memory hm)
  irq := g.irq.trans h.irq
  video := g.video.trans h.video
  joy := g.joy.trans h.joy
  dma := g.dma.trans h.dma
  stall hs := g.stall (h.stall hs)

theorem HdmaKeeps.of_transfer {s t : State} (h : TransferKeeps s t) : HdmaKeeps s t := by
  have he : t.events = s.events := by have e := congrArg State.events h.rest; exact e
  have hu : t.stallUntil = s.stallUntil := by have e := congrArg State.stallUntil h.rest; exact e
  have ha : t.stallActive = s.stallActive := by have e := congrArg State.stallActive h.rest; exact e
  refine ⟨?_, h.channels, h.memory, event_congr he _, event_congr he _, event_congr he _, by rw [event_congr he],
    by rw [event_congr he, hu, ha]; exact id⟩
  have : blankHdma t = { blankTransfer t with
    events := State.reset.events, seqCounter := 0, stallUntil := 0, stallActive := false } := rfl
  rw [this, h.rest]
  rfl

/-- A new stall starts at or after `committed`. -/
theorem committed_le_stallStart (s : State) : s.committed ≤ stallStart s := by
  unfold stallStart
  split <;> omega

/-- Everything a stall of no length does: nothing (R195). -/
@[simp] theorem stallBegin_zero (s : State) : stallBegin 0 s = s := rfl

/-- Everything a stall does while no GDMA step is queued (R195). -/
theorem stallBegin_idle {len : Nat} {s : State} (h : len ≠ 0) (hd : (event s .dma).queued = false) :
    stallBegin len s =
      scheduleAt .stall (stallStart s + len) { s with stallUntil := stallStart s + len, stallActive := true } := by
  unfold stallBegin
  rw [if_neg h]
  exact if_neg (by rw [event_scheduleAt_other _ _ (by simp)]; exact Bool.eq_false_iff.1 hd)

/-- Everything a stall does while a GDMA step is queued (R195). -/
theorem stallBegin_dma {len : Nat} {s : State} (h : len ≠ 0) (hd : (event s .dma).queued = true) :
    stallBegin len s =
      scheduleAt .dma ((event s .dma).when + len)
        (scheduleAt .stall (stallStart s + len) { s with stallUntil := stallStart s + len, stallActive := true }) := by
  unfold stallBegin
  rw [if_neg h]
  exact if_pos (by rw [event_scheduleAt_other _ _ (by simp)]; exact hd)

/-- What a stall leaves alone (R195). -/
theorem stallBegin_keeps (len : Nat) (s : State) : HdmaKeeps s (stallBegin len s) := by
  by_cases hl : len = 0
  · subst hl; exact .refl s
  cases hq : (event s .dma).queued with
  | true =>
    rw [stallBegin_dma hl hq]
    refine ⟨rfl, fun _ => by simp [FixedRegisters, channel], id, rfl, rfl, rfl, hq.symm, fun _ => ?_⟩
    simp [event_scheduleAt]
  | false =>
    rw [stallBegin_idle hl hq]
    refine ⟨rfl, fun _ => by simp [FixedRegisters, channel], id, rfl, rfl, rfl, rfl, fun _ => ?_⟩
    simp

theorem stallBegin_fault (len : Nat) (s : State) : (stallBegin len s).fault = s.fault := by
  by_cases hl : len = 0
  · subst hl; rfl
  cases hq : (event s .dma).queued with
  | true => rw [stallBegin_dma hl hq]; rfl
  | false => rw [stallBegin_idle hl hq]; rfl

abbrev HdmaSat {α : Type} (s : State) (r : Run α) : Prop :=
  Run.Sat (fun t => HdmaKeeps s t ∧ t.fault = s.fault) (fun t => HdmaKeeps s t ∧ TransferFault t) r

theorem burst_sat {s : State} {r : Run Burst} (h : TransferSat s r) :
    HdmaSat s (r.bind fun b t => .ok () (burstStall b t)) := by
  refine Run.Sat.bind h (fun b t ⟨h1, h2⟩ => ?_) fun t ⟨h1, h2⟩ => ⟨.of_transfer h1, h2⟩
  simp only [Run.sat_ok, burstStall]
  split
  · exact ⟨(HdmaKeeps.of_transfer h1).trans (stallBegin_keeps _ t), (stallBegin_fault _ t).trans h2⟩
  · exact ⟨.of_transfer h1, h2⟩

/-- Everything the per-frame reload leaves alone. -/
theorem hdmaInit_sat (s : State) : HdmaSat s (hdmaInit s) :=
  burst_sat (forChannels_sat hdmaInitChannel_sat _ _ s)

/-- Everything a line burst leaves alone. -/
theorem hdmaLine_sat (s : State) : HdmaSat s (hdmaLine s) :=
  burst_sat (forChannels_sat hdmaLineChannel_sat _ _ s)

end Sys2Proof.Machine
end

