-- ==== Sys2Proof/Laws/Callbacks.lean ====
section
/-! SUPPORT. What the event callbacks can do: the dot actions of a video tick, a GDMA step, and firing an
event. -/

namespace Sys2Proof.Machine

/-! ### Video ticks -/

/-- The state with everything blanked that the actions of a dot can change. -/
def blankTick (s : State) : State :=
  { blankHdma s with
    hblank := false, vblank := false, nmiFlag := false, nmiPrev := false, nmiRequest := false, frameCounter := 0,
    frameDone := false, autoJoyBusy := false, joy := State.reset.joy }

/-- What the actions of a dot leave alone, and how what they change moves. -/
structure DotKeeps (s t : State) : Prop where
  rest     : blankTick t = blankTick s
  channels : ∀ c, FixedRegisters (channel s c) (channel t c)
  memory   : MemoryKept s t
  irq      : event t .irq = event s .irq
  video    : event t .video = event s .video
  dma      : (event t .dma).queued = (event s .dma).queued
  stall    : (s.stallActive = true ↔ (event s .stall).queued = true ∧ (event s .stall).when = s.stallUntil) →
    (t.stallActive = true ↔ (event t .stall).queued = true ∧ (event t .stall).when = t.stallUntil)
  request  : s.nmiRequest = true → t.nmiRequest = true
  count    : s.frameCounter ≤ t.frameCounter
  done     : t.frameDone = true → s.frameDone = true ∨ s.frameCounter < t.frameCounter
  joy      : t.joy = s.joy ∨ t.joy = #v[s.joyInput[0], s.joyInput[1], 0x0000, 0x0000]

theorem DotKeeps.refl (s : State) : DotKeeps s s :=
  ⟨rfl, fun _ => by simp [FixedRegisters], id, rfl, rfl, rfl, id, id, Nat.le_refl _, .inl, .inl rfl⟩

theorem DotKeeps.trans {s t u : State} (h : DotKeeps s t) (g : DotKeeps t u) : DotKeeps s u where
  rest := g.rest.trans h.rest
  channels c := by
    obtain ⟨a1, a2, a3, a4, a5⟩ := h.channels c
    obtain ⟨b1, b2, b3, b4, b5⟩ := g.channels c
    exact ⟨b1.trans a1, b2.trans a2, b3.trans a3, b4.trans a4, b5.trans a5⟩
  memory hm := g.memory (h.memory hm)
  irq := g.irq.trans h.irq
  video := g.video.trans h.video
  dma := g.dma.trans h.dma
  stall hs := g.stall (h.stall hs)
  request hn := g.request (h.request hn)
  count := Nat.le_trans h.count g.count
  done hd := by
    have h1 := h.count
    have h2 := g.count
    rcases g.done hd with hd | hd
    · rcases h.done hd with hd | hd
      · exact .inl hd
      · exact .inr (by omega)
    · exact .inr (by omega)
  joy := by
    have hi : t.joyInput = s.joyInput := by have e := congrArg State.joyInput h.rest; exact e
    rcases g.joy with gj | gj
    · rw [gj]; exact h.joy
    · rw [gj, hi]; exact .inr rfl

theorem DotKeeps.of_hdma {s t : State} (h : HdmaKeeps s t) : DotKeeps s t := by
  have hr : t.nmiRequest = s.nmiRequest := by have e := congrArg State.nmiRequest h.rest; exact e
  have hc : t.frameCounter = s.frameCounter := by have e := congrArg State.frameCounter h.rest; exact e
  have hd : t.frameDone = s.frameDone := by have e := congrArg State.frameDone h.rest; exact e
  have hj : t.joy = s.joy := by have e := congrArg State.joy h.rest; exact e
  refine ⟨?_, h.channels, h.memory, h.irq, h.video, h.dma, h.stall, fun hn => hr.trans hn, Nat.le_of_eq hc.symm,
    fun hx => .inl (hd ▸ hx), .inl hj⟩
  have : blankTick t = { blankHdma t with
    hblank := false, vblank := false, nmiFlag := false, nmiPrev := false, nmiRequest := false, frameCounter := 0,
    frameDone := false, autoJoyBusy := false, joy := State.reset.joy } := rfl
  rw [this, h.rest]
  rfl

theorem vblankEnter_keeps (s : State) : DotKeeps s (vblankEnter s) :=
  ⟨rfl, fun _ => by simp [FixedRegisters, channel, vblankEnter], id, rfl, rfl, rfl, id,
    fun h => by simp [vblankEnter, h], Nat.le_succ _, fun _ => .inr (Nat.lt_succ_self _), .inl rfl⟩

theorem vblankExit_keeps (s : State) : DotKeeps s (vblankExit s) :=
  ⟨rfl, fun _ => by simp [FixedRegisters, channel, vblankExit], id, rfl, rfl, rfl, id,
    fun h => by simp [vblankExit, h], Nat.le_refl _, .inl, .inl rfl⟩

theorem emit_keeps (o : Output) (s : State) : DotKeeps s (emit o s) :=
  ⟨rfl, fun _ => by simp [FixedRegisters, channel], id, rfl, rfl, rfl, id, id, Nat.le_refl _, .inl, .inl rfl⟩

theorem hblankClear_keeps (s : State) : DotKeeps s { s with hblank := false } :=
  ⟨rfl, fun _ => by simp [FixedRegisters, channel], id, rfl, rfl, rfl, id, id, Nat.le_refl _, .inl, .inl rfl⟩

theorem hblankStart_keeps (v : Nat) (s : State) : DotKeeps s (hblankStart v s) := by
  unfold hblankStart
  split <;>
    exact ⟨rfl, fun _ => by simp [FixedRegisters, channel], id, rfl, rfl, rfl, id, id, Nat.le_refl _, .inl, .inl rfl⟩

theorem joyStart_keeps (t0 : Nat) (s : State) : DotKeeps s (joyStart t0 s) :=
  ⟨rfl, fun _ => by simp [FixedRegisters, channel, joyStart], id, rfl, rfl, rfl, id, id, Nat.le_refl _, .inl, .inr rfl⟩

/-- A dot action's ends. -/
abbrev DotSat {α : Type} (s : State) (r : Run α) : Prop :=
  Run.Sat (fun t => DotKeeps s t ∧ t.fault = s.fault) (fun t => DotKeeps s t ∧ TransferFault t) r

theorem DotSat.bind {α β : Type} {s : State} {r : Run α} {k : α → State → Run β} (h : DotSat s r)
    (hk : ∀ a t, DotSat t (k a t)) : DotSat s (r.bind k) :=
  Run.Sat.bind h
    (fun a t ⟨h1, h2⟩ => (hk a t).mono (fun _ ⟨g1, g2⟩ => ⟨h1.trans g1, g2.trans h2⟩)
      fun _ ⟨g1, g2⟩ => ⟨h1.trans g1, g2⟩)
    fun _ h => h

theorem DotSat.of_hdma {α : Type} {s : State} {r : Run α} (h : HdmaSat s r) : DotSat s r :=
  h.mono (fun _ ⟨h1, h2⟩ => ⟨.of_hdma h1, h2⟩) fun _ ⟨h1, h2⟩ => ⟨.of_hdma h1, h2⟩

theorem actionIf_sat (cond : Bool) {f : State → State} (s : State) (h : DotKeeps s (f s)) (hf : (f s).fault = s.fault) :
    DotSat s (actionIf cond f s) := by
  unfold actionIf
  cases cond
  · exact ⟨.refl s, rfl⟩
  · exact ⟨h, hf⟩

/-- Everything the actions of a dot leave alone (R353). -/
theorem dotActions_sat (t0 : Nat) (s : State) : DotSat s (dotActions t0 s) := by
  unfold dotActions
  simp only
  refine (actionIf_sat _ s (vblankEnter_keeps s) rfl).bind fun _ s1 => ?_
  refine (actionIf_sat _ s1 (vblankExit_keeps s1) rfl).bind fun _ s2 => ?_
  refine (actionIf_sat _ s2 (hblankClear_keeps s2) rfl).bind fun _ s3 => ?_
  refine DotSat.bind ?_ fun _ s4 => ?_
  · split
    · exact .of_hdma (hdmaInit_sat s3)
    · exact ⟨.refl s3, rfl⟩
  refine (actionIf_sat _ s4 (emit_keeps _ s4) rfl).bind fun _ s5 => ?_
  refine (actionIf_sat _ s5 (joyStart_keeps t0 s5) rfl).bind fun _ s6 => ?_
  refine (actionIf_sat _ s6 (.of_hdma (stallBegin_keeps _ s6)) (stallBegin_fault _ s6)).bind fun _ s7 => ?_
  refine (actionIf_sat _ s7 (hblankStart_keeps _ s7) (by unfold hblankStart; split <;> rfl)).bind fun _ s8 => ?_
  split
  · exact .of_hdma (hdmaLine_sat s8)
  · exact ⟨.refl s8, rfl⟩

/-- The flags a tick leaves, on the state at its new position: the actions of R353 that are not DMA's. -/
def tickFlags (s : State) : State :=
  let s1 := if s.dot == 0 && s.scanline == s.cfg.vblankLine then vblankEnter s else s
  let s2 := if s.dot == 0 && s.scanline == 0 then vblankExit s1 else s1
  let s3 : State := if s.dot == s.cfg.hblankClearDot then { s2 with hblank := false } else s2
  let s4 : State :=
    if s.scanline == s.cfg.vblankLine && s.dot == s.cfg.joyDot && autoJoyEnable s then
      { s3 with autoJoyBusy := true, joy := #v[s.joyInput[0], s.joyInput[1], 0x0000, 0x0000] }
    else s3
  if s.dot == s.cfg.hblankDot then { s4 with hblank := true } else s4

/-- The flags after the actions of a dot (R353, R354, R357, R360, R362, R363). -/
theorem dotActions_flags (t0 : Nat) (s : State) :
    Run.Sat (fun t => blankHdma t = blankHdma (tickFlags s)) (fun _ => True) (dotActions t0 s) := by
  have hdma : ∀ {x y : State}, HdmaKeeps x y → blankHdma y = blankHdma x := fun h => h.rest
  unfold dotActions
  simp only
  -- each action: what is known of the state so far, as a pure function of `s`
  have act : ∀ (cond : Bool) (f : State → State) (x : State) (y : State),
      blankHdma x = blankHdma y → (∀ x y, blankHdma x = blankHdma y → blankHdma (f x) = blankHdma (f y)) →
      Run.Sat (fun t => blankHdma t = blankHdma (if cond then f y else y)) (fun _ => True) (actionIf cond f x) := by
    intro cond f x y hxy hf
    unfold actionIf
    cases cond
    · exact hxy
    · exact hf x y hxy
  have field : ∀ {x y : State} (g : State → State), (∀ x, blankHdma (g x) = g (blankHdma x)) →
      blankHdma x = blankHdma y → blankHdma (g x) = blankHdma (g y) := by
    intro x y g hg h
    rw [hg, hg, h]
  refine (act _ _ s s rfl fun x y h => field vblankEnter (fun _ => rfl) h).bind (fun _ s1 h1 => ?_) fun _ _ => trivial
  refine (act _ _ s1 _ h1 fun x y h => field vblankExit (fun _ => rfl) h).bind (fun _ s2 h2 => ?_) fun _ _ => trivial
  refine (act _ _ s2 _ h2 fun x y h => field (fun s => { s with hblank := false }) (fun _ => rfl) h).bind
    (fun _ s3 h3 => ?_) fun _ _ => trivial
  refine Run.Sat.bind (P := fun t => blankHdma t = blankHdma s3) (Q := fun _ => True) ?_
    (fun _ s4 h4 => ?_) fun _ _ => trivial
  · split
    · exact (hdmaInit_sat s3).mono (fun t h => hdma h.1) fun _ _ => trivial
    · rfl
  refine Run.Sat.bind (P := fun t => blankHdma t = blankHdma s3) (Q := fun _ => True) ?_
    (fun _ s5 h5 => ?_) fun _ _ => trivial
  · unfold actionIf
    simp only [Run.sat_ok]
    split
    · exact h4
    · exact h4
  have h5' := h5.trans h3
  have ha : autoJoyEnable s5 = autoJoyEnable s := by
    have e1 := congrArg State.nmitimen h5'
    have e2 : s5.nmitimen = s.nmitimen := by
      refine e1.trans ?_
      simp only [blankHdma, blankTransfer, blankAccess]
      split <;> split <;> split <;> rfl
    simp [autoJoyEnable, e2]
  have hji : s5.joyInput = s.joyInput := by
    have e1 := congrArg State.joyInput h5'
    refine e1.trans ?_
    simp only [blankHdma, blankTransfer, blankAccess]
    split <;> split <;> split <;> rfl
  rw [ha]
  refine Run.Sat.bind (P := fun t => blankHdma t = blankHdma (if
      s.scanline == s.cfg.vblankLine && s.dot == s.cfg.joyDot && autoJoyEnable s then
      { s5 with autoJoyBusy := true, joy := #v[s.joyInput[0], s.joyInput[1], 0x0000, 0x0000] } else s5))
    (Q := fun _ => True) ?_ (fun _ s6 h6 => ?_) fun _ _ => trivial
  · unfold actionIf
    simp only [Run.sat_ok]
    split
    · simp only [joyStart, hji]; rfl
    · rfl
  refine Run.Sat.bind (P := fun t => blankHdma t = blankHdma s6) (Q := fun _ => True) ?_
    (fun _ s7 h7 => ?_) fun _ _ => trivial
  · unfold actionIf
    simp only [Run.sat_ok]
    split
    · exact hdma (stallBegin_keeps _ s6)
    · rfl
  have h7' : blankHdma s7 = blankHdma (if
      s.scanline == s.cfg.vblankLine && s.dot == s.cfg.joyDot && autoJoyEnable s then
      { (if s.dot == s.cfg.hblankClearDot then
          { (if s.dot == 0 && s.scanline == 0 then
              vblankExit (if s.dot == 0 && s.scanline == s.cfg.vblankLine then vblankEnter s else s)
            else if s.dot == 0 && s.scanline == s.cfg.vblankLine then vblankEnter s else s) with hblank := false }
        else if s.dot == 0 && s.scanline == 0 then
              vblankExit (if s.dot == 0 && s.scanline == s.cfg.vblankLine then vblankEnter s else s)
            else if s.dot == 0 && s.scanline == s.cfg.vblankLine then vblankEnter s else s : State) with
        autoJoyBusy := true, joy := #v[s.joyInput[0], s.joyInput[1], 0x0000, 0x0000] }
      else if s.dot == s.cfg.hblankClearDot then
          { (if s.dot == 0 && s.scanline == 0 then
              vblankExit (if s.dot == 0 && s.scanline == s.cfg.vblankLine then vblankEnter s else s)
            else if s.dot == 0 && s.scanline == s.cfg.vblankLine then vblankEnter s else s : State) with hblank := false }
        else if s.dot == 0 && s.scanline == 0 then
              vblankExit (if s.dot == 0 && s.scanline == s.cfg.vblankLine then vblankEnter s else s)
            else if s.dot == 0 && s.scanline == s.cfg.vblankLine then vblankEnter s else s) := by
    refine h7.trans (h6.trans ?_)
    split
    · exact field (fun x => { x with
        autoJoyBusy := true, joy := #v[s.joyInput[0], s.joyInput[1], 0x0000, 0x0000] }) (fun _ => rfl) h5'
    · exact h5'
  refine Run.Sat.bind (P := fun t => blankHdma t = blankHdma (tickFlags s)) (Q := fun _ => True) ?_
    (fun _ s8 h8 => ?_) fun _ _ => trivial
  · unfold actionIf
    simp only [Run.sat_ok, tickFlags]
    split
    · refine Eq.trans ?_ (field (fun x => { x with hblank := true }) (fun _ => rfl) h7')
      unfold hblankStart
      split <;> rfl
    · exact h7'
  · split
    · exact ((hdmaLine_sat s8).mono (fun t h => (hdma h.1).trans h8) fun _ _ => trivial)
    · exact h8

/-! ### GDMA steps -/

/-- The state with everything blanked that a GDMA step can change. -/
def blankGdma (s : State) : State :=
  { blankTransfer s with
    events := State.reset.events, seqCounter := 0, gdmaPhase := .idle, gdmaActive := false, gdmaChannel := 0,
    gdmaIndex := 0 }

/-- What a GDMA step leaves alone, R67 (a), and when it leaves EV_DMA queued. -/
structure GdmaKeeps (s t : State) : Prop where
  rest     : blankGdma t = blankGdma s
  channels : ∀ c, FixedRegisters (channel s c) (channel t c)
  memory   : MemoryKept s t
  other    : ∀ e, e ≠ .dma → event t e = event s e
  gdma     : GdmaAgrees s → GdmaAgrees t
  dma      : (event s .dma).queued = false → (event t .dma).queued = true → t.gdmaPhase ≠ .idle

theorem GdmaKeeps.refl (s : State) : GdmaKeeps s s :=
  ⟨rfl, fun _ => by simp [FixedRegisters], id, fun _ _ => rfl, id, fun h h' => by simp [h] at h'⟩

theorem GdmaKeeps.of_transfer {s t : State} (h : TransferKeeps s t) : GdmaKeeps s t := by
  have he : t.events = s.events := by have e := congrArg State.events h.rest; exact e
  have hp : t.gdmaPhase = s.gdmaPhase := by have e := congrArg State.gdmaPhase h.rest; exact e
  have ha : t.gdmaActive = s.gdmaActive := by have e := congrArg State.gdmaActive h.rest; exact e
  refine ⟨?_, h.channels, h.memory, fun e _ => event_congr he e, fun h => by rw [GdmaAgrees, hp, ha]; exact h,
    fun h1 h2 => by rw [event_congr he, h1] at h2; cases h2⟩
  have : blankGdma t = { blankTransfer t with
    events := State.reset.events, seqCounter := 0, gdmaPhase := .idle, gdmaActive := false, gdmaChannel := 0,
    gdmaIndex := 0 } := rfl
  rw [this, h.rest]
  rfl

/-- A GDMA step raises a transfer fault, or finds the sequencer idle (R294, R415). -/
abbrev GdmaFault (s t : State) : Prop := TransferFault t ∨ s.gdmaPhase = .idle

abbrev GdmaSat (s : State) (r : Run Unit) : Prop :=
  Run.Sat (fun t => GdmaKeeps s t ∧ t.fault = s.fault) (fun t => GdmaKeeps s t ∧ t.fault ≠ none ∧ GdmaFault s t) r

theorem gdmaSelect_sat (t0 : Nat) {s : State} (hp : s.gdmaPhase ≠ .idle) : GdmaSat s (gdmaSelect t0 s) := by
  unfold gdmaSelect
  split
  · refine ⟨⟨rfl, fun _ => by simp [FixedRegisters, channel], id, fun _ _ => rfl, fun _ => by simp [GdmaAgrees],
      fun h h' => ?_⟩, rfl⟩
    exact absurd (h.symm.trans h') (by simp)
  · split
    · trivial
    · split
      · trivial
      · split
        · exact ⟨⟨rfl, fun _ => by simp [FixedRegisters, channel], id, fun _ _ => rfl, id,
            fun h h' => absurd (h.symm.trans h') (by simp)⟩, by simp, .inl ⟨_, rfl, by simp⟩⟩
        · refine ⟨⟨rfl, fun _ => by simp [FixedRegisters, channel], id, fun e he => event_scheduleAt_other _ _ he,
            fun h => ?_, fun _ _ => by simp⟩, rfl⟩
          simpa [GdmaAgrees] using h.2 hp

theorem gdmaAfterByte_sat (t0 : Nat) (c : Chan) {s : State} (hp : s.gdmaPhase ≠ .idle) :
    GdmaKeeps s (gdmaAfterByte t0 c s) ∧ (gdmaAfterByte t0 c s).fault = s.fault := by
  have fixed : ∀ d, FixedRegisters (channel s d)
      (channel (setChannel c { channel s c with a1t := stepA1t (channel s c), das := (channel s c).das - 1 } s) d) := by
    intro d
    rw [channel_setChannel]
    split
    · subst d; simp [FixedRegisters]
    · simp [FixedRegisters]
  unfold gdmaAfterByte
  simp only
  split
  · refine ⟨⟨rfl, fixed, id, fun e he => event_scheduleAt_other _ _ he, fun h => ?_, fun _ _ => by simp⟩, rfl⟩
    simpa [GdmaAgrees] using h.2 hp
  · refine ⟨⟨rfl, fixed, id, fun e he => event_scheduleAt_other _ _ he, fun h => ?_, fun _ _ => by simpa using hp⟩, rfl⟩
    simpa [GdmaAgrees] using h

theorem gdmaTransfer_sat (t0 : Nat) {s : State} (hp : s.gdmaPhase ≠ .idle) : GdmaSat s (gdmaTransfer t0 s) := by
  unfold gdmaTransfer
  simp only
  split
  · exact gdmaSelect_sat t0 hp
  · split
    · trivial
    · rename_i ha
      refine Run.Sat.bind (moveByte_sat _ (Bool.eq_false_iff.2 ha) _ s) (fun _ t ⟨h1, h2, h3⟩ => ?_)
        (fun t ⟨h1, h2, h3⟩ => ?_)
      · have hk := GdmaKeeps.of_transfer (.of_access h1 h3)
        have hpt : t.gdmaPhase ≠ .idle := by
          have e := congrArg State.gdmaPhase h1
          intro hx
          exact hp (e.symm.trans hx)
        obtain ⟨g1, g2⟩ := gdmaAfterByte_sat t0 s.gdmaChannel hpt
        refine ⟨⟨g1.rest.trans hk.rest, fun c => ?_, fun hm => g1.memory (hk.memory hm),
          fun e he => (g1.other e he).trans (hk.other e he), fun ha => g1.gdma (hk.gdma ha), fun hd => g1.dma ?_⟩,
          g2.trans h2⟩
        · obtain ⟨a1, a2, a3, a4, a5⟩ := hk.channels c
          obtain ⟨b1, b2, b3, b4, b5⟩ := g1.channels c
          exact ⟨b1.trans a1, b2.trans a2, b3.trans a3, b4.trans a4, b5.trans a5⟩
        · have he : t.events = s.events := by have e := congrArg State.events h1; exact e
          rw [event_congr he]; exact hd
      · obtain ⟨f, hf, hc⟩ := h2
        exact ⟨.of_transfer (.of_access h1 h3), by simp [hf], .inl ⟨f, hf, hc⟩⟩

/-- Everything a GDMA step leaves alone (R294 to R302). -/
theorem gdmaStep_sat (late : Nat) (s : State) : GdmaSat s (gdmaStep late s) := by
  unfold gdmaStep
  simp only
  split
  · rename_i h; exact gdmaSelect_sat _ (by simp [h])
  · rename_i h; exact gdmaTransfer_sat _ (by simp [h])
  · rename_i h
    exact ⟨⟨rfl, fun _ => by simp [FixedRegisters, channel], id, fun _ _ => rfl, id,
      fun h h' => absurd (h.symm.trans h') (by simp)⟩, by simp, .inr h⟩

/-! ### The whole tick -/

/-- The counters stay in the frame (R350, R352). -/
theorem advancePosition_inFrame {s : State} (h : InFrame s) : InFrame (advancePosition s) := by
  unfold advancePosition
  obtain ⟨h1, h2⟩ := h
  split
  · split <;> constructor <;> simp only <;> omega
  · constructor <;> simp only <;> omega

/-- Everything a tick does apart from its dot actions: the new position before, the comparator and the
requeueing after (R351). -/
theorem videoTick_sat (late : Nat) (s : State) :
    Run.Sat
      (fun t => ∃ m, DotKeeps (advancePosition s) m ∧ m.fault = s.fault ∧
        blankHdma m = blankHdma (tickFlags (advancePosition s)) ∧
        t = scheduleAt .video (s.committed - late + s.cfg.dotCycles) (irqCompare (s.committed - late) m))
      (fun t => DotKeeps (advancePosition s) t ∧ TransferFault t) (videoTick late s) := by
  have hp : (advancePosition s).fault = s.fault := by unfold advancePosition; split <;> (try split) <;> rfl
  have hc : (advancePosition s).cfg = s.cfg := by unfold advancePosition; split <;> (try split) <;> rfl
  unfold videoTick
  refine Run.Sat.bind ((dotActions_sat _ _).and (dotActions_flags _ _)) (fun _ m ⟨⟨h1, h2⟩, h3⟩ => ?_) fun t h => h.1
  have hm : m.cfg = s.cfg := by
    have e := congrArg State.cfg h1.rest
    exact Eq.trans e hc
  exact ⟨m, h1, h2.trans hp, h3, by rw [hm]⟩

/-! ### Firing an event -/

/-- The state with everything blanked that a callback can change. -/
def blankCallback (s : State) : State :=
  { State.reset with
    committed := s.committed, ahead := s.ahead, cpuState := s.cpuState, memsel := s.memsel, hdmaen := s.hdmaen,
    nmitimen := s.nmitimen, htime := s.htime, vtime := s.vtime, joyInput := s.joyInput, wrio := s.wrio,
    paused := s.paused, cfg := s.cfg, regions := s.regions, cpuScript := s.cpuScript, cpuEngine := s.cpuEngine,
    port := s.port,
    inbox := s.inbox, cpuByte := s.cpuByte, reply := s.reply }

/-- What firing any event leaves alone, and how what it changes moves. -/
structure CallbackKeeps (s t : State) : Prop where
  rest     : blankCallback t = blankCallback s
  channels : ∀ c, FixedRegisters (channel s c) (channel t c)
  memory   : MemoryKept s t
  gdma     : GdmaAgrees s → GdmaAgrees t
  frame    : InFrame s → InFrame t
  request  : s.nmiRequest = true → t.nmiRequest = true
  count    : s.frameCounter ≤ t.frameCounter
  done     : t.frameDone = true → s.frameDone = true ∨ s.frameCounter < t.frameCounter
  joy      : t.joy = s.joy ∨ t.joy = #v[s.joyInput[0], s.joyInput[1], 0x0000, 0x0000]

theorem CallbackKeeps.refl (s : State) : CallbackKeeps s s :=
  ⟨rfl, fun _ => by simp [FixedRegisters], id, id, id, id, Nat.le_refl _, .inl, .inl rfl⟩

theorem CallbackKeeps.trans {s t u : State} (h : CallbackKeeps s t) (g : CallbackKeeps t u) : CallbackKeeps s u where
  rest := g.rest.trans h.rest
  channels c := by
    obtain ⟨a1, a2, a3, a4, a5⟩ := h.channels c
    obtain ⟨b1, b2, b3, b4, b5⟩ := g.channels c
    exact ⟨b1.trans a1, b2.trans a2, b3.trans a3, b4.trans a4, b5.trans a5⟩
  memory hm := g.memory (h.memory hm)
  gdma ha := g.gdma (h.gdma ha)
  frame hf := g.frame (h.frame hf)
  request hn := g.request (h.request hn)
  count := Nat.le_trans h.count g.count
  done hd := by
    have h1 := h.count
    have h2 := g.count
    rcases g.done hd with hd | hd
    · rcases h.done hd with hd | hd
      · exact .inl hd
      · exact .inr (by omega)
    · exact .inr (by omega)
  joy := by
    have hi : t.joyInput = s.joyInput := by have e := congrArg State.joyInput h.rest; exact e
    rcases g.joy with gj | gj
    · rw [gj]; exact h.joy
    · rw [gj, hi]; exact .inr rfl

/-- A state that differs only in its events, its queue stamp, IRQ flag, stall flag, joypad flag, current event
or fault. -/
theorem CallbackKeeps.of_flags {s t : State}
    (h : { t with events := s.events, seqCounter := s.seqCounter, irqFlag := s.irqFlag, stallActive := s.stallActive,
                  autoJoyBusy := s.autoJoyBusy, current := s.current, fault := s.fault } = s) : CallbackKeeps s t := by
  have hch : t.channels = s.channels := by have e := congrArg State.channels h; exact e
  have hrest : blankCallback t = blankCallback s := by have e := congrArg blankCallback h; exact e
  have hmem : t.mem = s.mem := by have e := congrArg State.mem h; exact e
  have hga : t.gdmaActive = s.gdmaActive := by have e := congrArg State.gdmaActive h; exact e
  have hgp : t.gdmaPhase = s.gdmaPhase := by have e := congrArg State.gdmaPhase h; exact e
  have hd : t.dot = s.dot := by have e := congrArg State.dot h; exact e
  have hs : t.scanline = s.scanline := by have e := congrArg State.scanline h; exact e
  have hc : t.cfg = s.cfg := by have e := congrArg State.cfg h; exact e
  have hn : t.nmiRequest = s.nmiRequest := by have e := congrArg State.nmiRequest h; exact e
  have hfc : t.frameCounter = s.frameCounter := by have e := congrArg State.frameCounter h; exact e
  have hfd : t.frameDone = s.frameDone := by have e := congrArg State.frameDone h; exact e
  have hj : t.joy = s.joy := by have e := congrArg State.joy h; exact e
  exact ⟨hrest, fun c => by rw [channel_congr hch]; simp [FixedRegisters], fun hm => hmem ▸ hm,
    fun h => by rw [GdmaAgrees, hga, hgp]; exact h, fun h => by rw [InFrame, hd, hs, hc]; exact h, fun h => hn.trans h,
    Nat.le_of_eq hfc.symm, fun h => .inl (hfd ▸ h), .inl hj⟩

theorem CallbackKeeps.of_gdma {s t : State} (h : GdmaKeeps s t) : CallbackKeeps s t := by
  have hrest : blankCallback t = blankCallback s := by have e := congrArg blankCallback h.rest; exact e
  have hd : t.dot = s.dot := by have e := congrArg State.dot h.rest; exact e
  have hs : t.scanline = s.scanline := by have e := congrArg State.scanline h.rest; exact e
  have hc : t.cfg = s.cfg := by have e := congrArg State.cfg h.rest; exact e
  have hn : t.nmiRequest = s.nmiRequest := by have e := congrArg State.nmiRequest h.rest; exact e
  have hfc : t.frameCounter = s.frameCounter := by have e := congrArg State.frameCounter h.rest; exact e
  have hfd : t.frameDone = s.frameDone := by have e := congrArg State.frameDone h.rest; exact e
  have hj : t.joy = s.joy := by have e := congrArg State.joy h.rest; exact e
  exact ⟨hrest, h.channels, h.memory, h.gdma, fun h => by rw [InFrame, hd, hs, hc]; exact h, fun h => hn.trans h,
    Nat.le_of_eq hfc.symm, fun h => .inl (hfd ▸ h), .inl hj⟩

theorem CallbackKeeps.of_dot {s t : State} (h : DotKeeps (advancePosition s) t) : CallbackKeeps s t := by
  have hp : blankTick { advancePosition s with dot := s.dot, scanline := s.scanline, field := s.field } = blankTick s := by
    unfold advancePosition; split <;> (try split) <;> rfl
  have hrest : blankCallback t = blankCallback s := by
    have e := congrArg blankCallback h.rest
    have e' := congrArg blankCallback hp
    exact Eq.trans e e'
  have ech : ∀ c, channel (advancePosition s) c = channel s c := by
    intro c; unfold advancePosition; split <;> (try split) <;> rfl
  have emem : (advancePosition s).mem = s.mem := by unfold advancePosition; split <;> (try split) <;> rfl
  have hga : t.gdmaActive = s.gdmaActive := by
    have e := congrArg State.gdmaActive h.rest
    have e' := congrArg State.gdmaActive hp
    exact Eq.trans e e'
  have hgp : t.gdmaPhase = s.gdmaPhase := by
    have e := congrArg State.gdmaPhase h.rest
    have e' := congrArg State.gdmaPhase hp
    exact Eq.trans e e'
  have hd : t.dot = (advancePosition s).dot := by have e := congrArg State.dot h.rest; exact e
  have hs : t.scanline = (advancePosition s).scanline := by have e := congrArg State.scanline h.rest; exact e
  have hc : t.cfg = (advancePosition s).cfg := by have e := congrArg State.cfg h.rest; exact e
  have enr : (advancePosition s).nmiRequest = s.nmiRequest := by unfold advancePosition; split <;> (try split) <;> rfl
  have efc : (advancePosition s).frameCounter = s.frameCounter := by unfold advancePosition; split <;> (try split) <;> rfl
  have efd : (advancePosition s).frameDone = s.frameDone := by unfold advancePosition; split <;> (try split) <;> rfl
  have ejo : (advancePosition s).joy = s.joy := by unfold advancePosition; split <;> (try split) <;> rfl
  have eji : (advancePosition s).joyInput = s.joyInput := by unfold advancePosition; split <;> (try split) <;> rfl
  refine ⟨hrest, fun c => ech c ▸ h.channels c, fun hm => h.memory (emem.symm ▸ hm),
    fun h => by rw [GdmaAgrees, hga, hgp]; exact h, fun hf => ?_, fun hn => h.request (enr.trans hn), efc ▸ h.count,
    fun hx => efc ▸ efd ▸ h.done hx, ?_⟩
  · rw [InFrame, hd, hs, hc]
    exact advancePosition_inFrame hf
  · have := h.joy
    rw [ejo, eji] at this
    exact this

theorem irqCompare_keeps (t0 : Nat) (s : State) : CallbackKeeps s (irqCompare t0 s) := by
  unfold irqCompare
  split
  · exact .of_flags rfl
  · exact .refl s

theorem videoTick_keeps (late : Nat) (s : State) :
    Run.Sat (CallbackKeeps s) (CallbackKeeps s) (videoTick late s) := by
  refine (videoTick_sat late s).mono (fun t ⟨m, h1, _, _, h⟩ => ?_) fun t h => .of_dot h.1
  subst h
  exact ((CallbackKeeps.of_dot h1).trans (irqCompare_keeps _ m)).trans (.of_flags rfl)

/-- Everything the callback of an event leaves alone. -/
theorem dispatch_keeps (e : EventId) (late : Nat) (s : State) :
    Run.Sat (CallbackKeeps s) (CallbackKeeps s) (dispatch e late s) := by
  unfold dispatch
  split
  · exact .of_flags rfl
  · cases e with
    | irq => simp only [irqAssert, Run.sat_ok]; split <;> exact .of_flags rfl
    | video => exact videoTick_keeps late s
    | dma => exact (gdmaStep_sat late s).mono (fun t h => .of_gdma h.1) fun t h => .of_gdma h.1
    | stall => exact .of_flags rfl
    | joy => exact .of_flags rfl

theorem callbackDone_sat {P Q : State → Prop} {r : Run Unit}
    (h : Run.Sat (fun t => P { t with current := none }) (fun t => Q { t with current := none }) r) :
    Run.Sat P Q (callbackDone r) := by cases r <;> exact h

/-- Everything firing an event leaves alone (R168). -/
theorem fireEvent_keeps (e : EventId) (s : State) : Run.Sat (CallbackKeeps s) (CallbackKeeps s) (fireEvent e s) := by
  unfold fireEvent
  refine callbackDone_sat ?_
  have h0 : CallbackKeeps s { deschedule e s with current := some e } := .of_flags rfl
  have h1 : ∀ t, CallbackKeeps t { t with current := none } := fun t => .of_flags rfl
  exact (dispatch_keeps e _ _).mono (fun t h => (h0.trans h).trans (h1 t)) fun t h => (h0.trans h).trans (h1 t)

end Sys2Proof.Machine
end

