-- ==== Sys2Proof/Laws/Run.lean ====
section
/-! SUPPORT. Drains, CPU operations and the run-loop step: how an invariant goes through them. -/

namespace Sys2Proof.Machine

/-! ### Drains -/

/-- A property every firing keeps holds when the drain ends, and then nothing is due; a fault ends it
(R168). -/
theorem drain_sat {P Q : State → Prop}
    (hfire : ∀ e s, P s → dueEvent s = some e → Run.Sat P Q (fireEvent e s)) :
    ∀ (k : Nat) (s : State), P s → Run.Sat (fun t => P t ∧ dueEvent t = none) Q (drain k s) := by
  intro k
  induction k with
  | zero =>
    intro s hs
    unfold drain
    split
    · exact ⟨hs, ‹_›⟩
    · trivial
  | succ k ih =>
    intro s hs
    unfold drain
    split
    · exact ⟨hs, ‹_›⟩
    · exact Run.Sat.bind (hfire _ s hs ‹_›) (fun _ t ht => ih t ht) fun _ h => h

/-- What an Advance does to the clock, and what it leaves alone (R168). -/
theorem advance_sat (n : Nat) (s : State) :
    Run.Sat
      (fun t => CallbackKeeps { s with committed := s.committed + n, ahead := 0 } t ∧ dueEvent t = none ∧ s.ahead ≤ n)
      (fun t => CallbackKeeps { s with committed := s.committed + n, ahead := 0 } t ∧ s.ahead ≤ n ∨
        n < s.ahead ∧ raiseFault .invariant (.advanceBelowAhead n s.ahead) s = (.raised t : Run Unit))
      (advance n s) := by
  unfold advance
  split
  · exact .inr ⟨‹_›, rfl⟩
  · rename_i hn
    refine (drain_sat (P := CallbackKeeps { s with committed := s.committed + n, ahead := 0 })
      (Q := CallbackKeeps { s with committed := s.committed + n, ahead := 0 }) ?_ _ _ (.refl _)).mono
      (fun t h => ⟨h.1, h.2, by omega⟩) fun t h => .inl ⟨h, by omega⟩
    intro e u hu _
    exact (fireEvent_keeps e u).mono (fun t h => hu.trans h) fun t h => hu.trans h

/-! ### CPU operations -/

/-- The state with everything blanked that a CPU access can change, its cost and byte apart. -/
def blankCpu (s : State) : State :=
  { State.reset with
    committed := s.committed, ahead := s.ahead, cpuState := s.cpuState, stallActive := s.stallActive,
    stallUntil := s.stallUntil, gdmaChannel := s.gdmaChannel, gdmaIndex := s.gdmaIndex, dot := s.dot,
    scanline := s.scanline, hblank := s.hblank, vblank := s.vblank, field := s.field, autoJoyBusy := s.autoJoyBusy,
    joy := s.joy, joyInput := s.joyInput, frameCounter := s.frameCounter, frameDone := s.frameDone,
    paused := s.paused, cfg := s.cfg, regions := s.regions, cpuScript := s.cpuScript, cpuEngine := s.cpuEngine,
    port := s.port,
    inbox := s.inbox, current := s.current, cpuByte := s.cpuByte, reply := s.reply }

/-- What a CPU access leaves alone, and how what it changes moves. -/
structure CpuKeeps (s t : State) : Prop where
  rest    : blankCpu t = blankCpu s
  memory  : MemoryKept s t
  video   : event t .video = event s .video
  stall   : event t .stall = event s .stall
  joy     : event t .joy = event s .joy
  irq     : (event t .irq).queued = true → event t .irq = event s .irq
  dma     : event t .dma = event s .dma ∨ s.gdmaPhase = .idle ∧ t.gdmaPhase ≠ .idle ∧
    (1 ≤ s.cfg.dmaAlign → s.committed ≤ (event t .dma).when)
  phase   : t.gdmaPhase = s.gdmaPhase ∨ s.gdmaPhase = .idle
  gdma    : GdmaAgrees s → GdmaAgrees t
  request : s.nmiRequest = true → t.nmiRequest = true

theorem CpuKeeps.refl (s : State) : CpuKeeps s s :=
  ⟨rfl, id, rfl, rfl, rfl, fun _ => rfl, .inl rfl, .inl rfl, id, id⟩

/-- A state that differs only in fields no clause of `CpuKeeps` reads. -/
theorem CpuKeeps.of_fields {s t : State} (hb : blankCpu t = blankCpu s) (hm : MemoryKept s t) (he : t.events = s.events)
    (hp : t.gdmaPhase = s.gdmaPhase) (ha : t.gdmaActive = s.gdmaActive)
    (hn : s.nmiRequest = true → t.nmiRequest = true) : CpuKeeps s t :=
  ⟨hb, hm, event_congr he _, event_congr he _, event_congr he _, fun _ => event_congr he _, .inl (event_congr he _),
    .inl hp, fun h => by rw [GdmaAgrees, hp, ha]; exact h, hn⟩

/-- Putting a byte on the bus first, or last, changes nothing that `CpuKeeps` says. -/
theorem CpuKeeps.drive {s t : State} (v : Byte) (h : CpuKeeps s t) : CpuKeeps s (driveBus v t) :=
  ⟨h.rest, h.memory, h.video, h.stall, h.joy, h.irq, h.dma, h.phase, h.gdma, h.request⟩

theorem CpuKeeps.driven {s t : State} {v : Byte} (h : CpuKeeps (driveBus v s) t) : CpuKeeps s t :=
  ⟨h.rest, h.memory, h.video, h.stall, h.joy, h.irq, h.dma, h.phase, h.gdma, h.request⟩

/-- Everything a register read leaves alone (R221 to R254). -/
theorem blockRead_keeps (r : Reg) (s : State) : CpuKeeps s (blockRead r s).2 ∧ (blockRead r s).2.fault = s.fault := by
  have joy : ∀ n high, CpuKeeps s (readJoy n high s).2 ∧ (readJoy n high s).2.fault = s.fault := by
    intro n high
    unfold readJoy
    split <;> exact ⟨.of_fields rfl id rfl rfl rfl id, rfl⟩
  cases r with
  | port p =>
    cases p
    case slhv => simp only [blockRead, readSlhv]; split <;> exact ⟨.of_fields rfl id rfl rfl rfl id, rfl⟩
    case ophct => simp only [blockRead, readOphct]; split <;> exact ⟨.of_fields rfl id rfl rfl rfl id, rfl⟩
    case opvct => simp only [blockRead, readOpvct]; split <;> exact ⟨.of_fields rfl id rfl rfl rfl id, rfl⟩
    case stat78 => exact ⟨.of_fields rfl id rfl rfl rfl id, rfl⟩
    case rdnmi => exact ⟨.of_fields rfl id rfl rfl rfl fun h => by simp [blockRead, readRdnmi, h], rfl⟩
    case timeup => exact ⟨.of_fields rfl id rfl rfl rfl id, rfl⟩
    case joy1l | joy1h | joy2l | joy2h | joy3l | joy3h | joy4l | joy4h => exact joy _ _
    all_goals exact ⟨.refl s, rfl⟩
  | chan c r =>
    simp only [blockRead, readChannelReg]
    split
    · split
      · exact ⟨.refl s, rfl⟩
      · exact ⟨.of_fields rfl id rfl rfl rfl id, rfl⟩
    · exact ⟨.refl s, rfl⟩
  | tail low => exact ⟨.refl s, rfl⟩

theorem le_alignUp {a : Nat} (x : Nat) (ha : 1 ≤ a) : x ≤ alignUp x a := by
  unfold alignUp
  have h1 := Nat.div_add_mod (x + a - 1) a
  have h2 := Nat.mod_lt (x + a - 1) (show a > 0 by omega)
  rw [Nat.mul_comm] at h1
  omega

theorem gdmaArm_keeps (v : Byte) (tm cw : Nat) (s : State) (ht : s.committed ≤ tm) :
    CpuKeeps s (gdmaArm v tm cw s) ∧ (gdmaArm v tm cw s).fault = s.fault := by
  unfold gdmaArm
  simp only
  split
  · rename_i h
    refine ⟨⟨rfl, id, rfl, rfl, rfl, fun _ => rfl, .inr ⟨h.2, by simp, fun ha => ?_⟩, .inr h.2,
      fun _ => by simp [GdmaAgrees], id⟩, rfl⟩
    have := le_alignUp (tm + cw) ha
    simp only [event_scheduleAt_same]
    omega
  · exact ⟨.of_fields rfl id rfl rfl rfl id, rfl⟩

/-- Everything a register write leaves alone (R225 to R254). -/
theorem blockWrite_keeps (a : Addr) (v : Byte) (r : Reg) (s : State) :
    CpuKeeps s (blockWrite a v r s) ∧ (blockWrite a v r s).fault = s.fault := by
  cases r with
  | port p =>
    cases p
    case nmitimen =>
      simp only [blockWrite, writeNmitimen]
      split
      · refine ⟨⟨rfl, id, rfl, rfl, rfl, fun h => ?_, .inl rfl, .inl rfl, id, fun h => by simp [h]⟩, rfl⟩
        exact absurd (show false = true from h) (by decide)
      · exact ⟨.of_fields rfl id rfl rfl rfl fun h => by simp [h], rfl⟩
    case wrio => simp only [blockWrite, writeWrio]; split <;> exact ⟨.of_fields rfl id rfl rfl rfl id, rfl⟩
    case mdmaen => exact gdmaArm_keeps v _ _ s (by simp [now])
    all_goals exact ⟨.of_fields rfl id rfl rfl rfl id, rfl⟩
  | chan c r =>
    simp only [blockWrite, writeChannelReg]
    split
    · exact ⟨.of_fields rfl id rfl rfl rfl id, rfl⟩
    · exact ⟨.refl s, rfl⟩
  | tail low => exact ⟨.refl s, rfl⟩

theorem CpuKeeps.of_access {s t : State} (h : AccessKeeps s t) (hm : MemoryKept s t) : CpuKeeps s t := by
  have hb : blankCpu t = blankCpu s := by have e := congrArg blankCpu h; exact e
  have he : t.events = s.events := by have e := congrArg State.events h; exact e
  have hp : t.gdmaPhase = s.gdmaPhase := by have e := congrArg State.gdmaPhase h; exact e
  have ha : t.gdmaActive = s.gdmaActive := by have e := congrArg State.gdmaActive h; exact e
  have hn : t.nmiRequest = s.nmiRequest := by have e := congrArg State.nmiRequest h; exact e
  exact .of_fields hb hm he hp ha fun h => hn.trans h

/-- The ends of a CPU access. -/
abbrev CpuSat {α : Type} (s : State) (r : Run α) : Prop :=
  Run.Sat (fun t => CpuKeeps s t ∧ t.fault = s.fault) (fun t => CpuKeeps s t ∧ TransferFault t) r

/-- Everything a read of the A-bus leaves alone (R95). -/
theorem memRead_sat (a : Addr) (s : State) : CpuSat s (memRead a s) := by
  unfold memRead
  split
  · rename_i r _
    obtain ⟨h1, h2⟩ := blockRead_keeps r s
    exact ⟨h1.drive _, h2⟩
  · exact (routerMemRead_sat a s).mono (fun t ⟨h1, h2, h3⟩ => ⟨.of_access h1 fun h => h3 ▸ h, h2⟩)
      fun t ⟨h1, h2, h3⟩ => ⟨.of_access h1 fun h => h3 ▸ h, h2⟩

/-- Everything a write of the A-bus leaves alone (R95). -/
theorem memWrite_sat (a : Addr) (v : Byte) (s : State) : CpuSat s (memWrite a v s) := by
  unfold memWrite
  split
  · rename_i r _
    obtain ⟨h1, h2⟩ := blockWrite_keeps a v r (driveBus v s)
    exact ⟨h1.driven, h2⟩
  · exact (routerMemWrite_sat a v (driveBus v s)).mono (fun t ⟨h1, h2, h3⟩ => ⟨(CpuKeeps.of_access h1 h3).driven, h2⟩)
      fun t ⟨h1, h2, h3⟩ => ⟨(CpuKeeps.of_access h1 h3).driven, h2⟩

end Sys2Proof.Machine
end

