-- ==== Sys2Proof/Laws/Firing.lean ====
section
/-! SUPPORT. What an event that can fire does, as an equation: the callback at the event's own time. What the CPU
presents and what it does at a boundary, as equations. And the small lemmas by which updates of a channel and of the
bus pass each other. -/

namespace Sys2Proof.Machine

/-! ### Firing an event that is due -/

/-- The lateness of a queued event (R161). -/
theorem fireEvent_of_queued {e : EventId} {s : State} (h : (event s e).queued = true) :
    fireEvent e s =
      callbackDone (dispatch e (s.committed - (event s e).when) (setCurrent (some e) (deschedule e s))) := by
  simp [fireEvent, lateness, h]

/-- A tick starts from the event's own time (R351, R367). -/
theorem exec_evVideo {s : State} (h : CanFire .video s) :
    exec .evVideo s =
      (callbackDone
        ((dotActions (event s .video).when (advancePosition (setCurrent (some .video) (deschedule .video s)))).bind
          fun _ u => .ok () (scheduleAt .video ((event s .video).when + u.cfg.dotCycles)
            (irqCompare (event s .video).when u)))).outcome := by
  obtain ⟨hl, ha, hq, hw⟩ := h
  have ht : s.committed - (s.committed - (event s .video).when) = (event s .video).when := by omega
  simp [exec, execEvVideo, unlessFaulted_live hl, fireEvent_of_queued hq, dispatch, ha, videoTick, ht]

/-- A GDMA step starts from the event's own time (R294). -/
theorem exec_evDma {s : State} (h : CanFire .dma s) :
    exec .evDma s =
      (callbackDone (match s.gdmaPhase with
        | .select => gdmaSelect (event s .dma).when (setCurrent (some .dma) (deschedule .dma s))
        | .transfer => gdmaTransfer (event s .dma).when (setCurrent (some .dma) (deschedule .dma s))
        | .idle => raiseFault .invariant .dmaWhileIdle (setCurrent (some .dma) (deschedule .dma s)))).outcome := by
  obtain ⟨hl, ha, hq, hw⟩ := h
  have ht : s.committed - (s.committed - (event s .dma).when) = (event s .dma).when := by omega
  cases hp : s.gdmaPhase <;>
    simp [exec, execEvDma, unlessFaulted_live hl, fireEvent_of_queued hq, dispatch, ha, gdmaStep, ht, hp]

/-- The comparator is off in mode %00 (R419). -/
theorem irqCompare_off (t0 : Nat) {s : State} (h : irqMode s = 0) : irqCompare t0 s = s := by
  simp [irqCompare, irqMatch, h]

/-! ### Draining -/

/-- A drain always has fuel for two events (R168; log 21). -/
theorem drainFuel_eq (s : State) : ∃ k, drainFuel s = k + 2 := ⟨drainFuel s - 2, by unfold drainFuel; omega⟩

/-- A drain ends where nothing is due (R168). -/
theorem drain_none {k : Nat} {s : State} (h : dueEvent s = none) : drain k s = .ok () s := by
  cases k <;> simp [drain, h]

/-- A drain fires the first due event (R168). -/
theorem drain_some {k : Nat} {s : State} {e : EventId} (h : dueEvent s = some e) :
    drain (k + 1) s = (fireEvent e s).bind fun _ s1 => drain k s1 := by
  simp [drain, h]

/-! ### The CPU's requests -/

/-- A word held at the port is what the CPU presents (R180; log 13). -/
theorem presented_port {s : State} {r : CpuRequest} {rest : List CpuRequest} (h : s.port = r :: rest) :
    presented s = r := by simp [presented, h]

/-- With no word held, the stream is (R180; log 10). -/
theorem presented_script {s : State} {r : CpuRequest} {rest : List CpuRequest} (hp : s.port = [])
    (h : s.cpuScript = r :: rest) : presented s = r := by simp [presented, hp, h]

/-- With neither, the engine does. -/
theorem presented_engine {s : State} (hp : s.port = []) (h : s.cpuScript = []) :
    presented s = engineRequest s.cpuEngine := by simp [presented, hp, h]

theorem cpuAdvance_of_port {s : State} {r : CpuRequest} {rest : List CpuRequest} (h : s.port = r :: rest) :
    cpuAdvance s = { s with port := rest } := by simp [cpuAdvance, h]

theorem cpuAdvance_of_script {s : State} {r : CpuRequest} {rest : List CpuRequest} (hp : s.port = [])
    (h : s.cpuScript = r :: rest) : cpuAdvance s = { s with cpuScript := rest } := by simp [cpuAdvance, hp, h]

theorem cpuAdvance_of_engine {s : State} (hp : s.port = []) (h : s.cpuScript = []) :
    cpuAdvance s = { s with cpuEngine := engineNext s.cpuByte s.cpuEngine } := by simp [cpuAdvance, hp, h]

/-- Where nothing is taken the CPU goes on as it is (R423). -/
theorem takeInterrupt_of_none {s : State} (h : interruptTaken s = none) : takeInterrupt s = s := by
  unfold takeInterrupt
  split
  · simp_all
  · rfl

/-- A held word is performed as it is (log 28). -/
theorem takeInterrupt_of_port {s : State} (h : s.port ≠ []) : takeInterrupt s = s := by
  unfold takeInterrupt
  split
  · exact absurd ‹_› h
  · rfl

/-- A given stream is performed as it is (log 28). -/
theorem takeInterrupt_of_script {s : State} (h : s.cpuScript ≠ []) : takeInterrupt s = s := by
  unfold takeInterrupt
  split
  · exact absurd ‹_› h
  · rfl

/-- The engine takes the interrupt in place of its FETCH (R423). -/
theorem takeInterrupt_of_engine {s : State} {k : Interrupt} (hp : s.port = []) (hs : s.cpuScript = [])
    (h : interruptTaken s = some k) : takeInterrupt s = { s with cpuEngine := engineService k s.cpuEngine } := by
  simp [takeInterrupt, hp, hs, h]

/-- The fields of a BUSOP word (R121). -/
theorem bitField_busWord (kind : BitVec 4) (a : Addr) (v : Byte) :
    bitField ((busWord kind a v).setWidth 64) 32 4 = kind.toNat ∧
    BitVec.ofNat 24 (bitField ((busWord kind a v).setWidth 64) 8 24) = a ∧
    BitVec.ofNat 8 (bitField ((busWord kind a v).setWidth 64) 0 8) = v := by
  have hv : v.toNat < 2 ^ 8 := v.isLt
  have ha : a.toNat < 2 ^ 24 := a.isLt
  have hk : kind.toNat < 2 ^ 4 := kind.isLt
  have hw : ((busWord kind a v).setWidth 64).toNat = (kind.toNat * 2 ^ 24 + a.toNat) * 2 ^ 8 + v.toNat := by
    simp only [busWord, BitVec.toNat_setWidth, BitVec.toNat_append]
    rw [← Nat.shiftLeft_add_eq_or_of_lt ha, ← Nat.shiftLeft_add_eq_or_of_lt hv, Nat.shiftLeft_eq, Nat.shiftLeft_eq]
    omega
  refine ⟨?_, BitVec.eq_of_toNat_eq ?_, BitVec.eq_of_toNat_eq ?_⟩ <;> rw [bitField, hw] <;>
    (try rw [BitVec.toNat_ofNat]) <;> omega

/-- The words the CPU's engine spells (R121, R122, R463, R424). -/
theorem decode_busWord (a : Addr) (v : Byte) :
    decodeBusop ((busWord 0 a v).setWidth 64) = .ok (.fetch a) ∧
    decodeBusop ((busWord 2 a v).setWidth 64) = .ok (.memoryLoad a) ∧
    decodeBusop ((busWord 3 a v).setWidth 64) = .ok (.memoryStore a v) ∧
    decodeBusop ((busWord 8 a v).setWidth 64) = .ok .nmiAck := by
  have h (kind : BitVec 4) := bitField_busWord kind a v
  simp [decodeBusop, (h 0#4).1, (h 0#4).2, (h 2#4).1, (h 2#4).2, (h 3#4).1, (h 3#4).2, (h 8#4).1]

/-- A word of kind 6 is a HALT (R122). -/
theorem decode_halt {w : BitVec 36} (h : wordKind w = 6) : decodeBusop (w.setWidth 64) = .ok .halt := by
  have hk : bitField (w.setWidth 64) 32 4 = 6 := by
    have : (wordKind w).toNat = 6 := by rw [h]; rfl
    rw [wordKind, BitVec.extractLsb'_toNat, Nat.shiftRight_eq_div_pow] at this
    have hw : w.toNat < 2 ^ 36 := w.isLt
    rw [bitField, BitVec.toNat_setWidth]
    omega
  simp [decodeBusop, hk]

/-- The CPU takes an interrupt only where its request is granted and at a boundary (R423). -/
theorem interruptTaken_some {s : State} {k : Interrupt} (h : interruptTaken s = some k) :
    granted s = true ∧ (presented s).atFetch = true := by
  unfold interruptTaken at h
  split at h
  · simp_all
  · cases h

/-- A granted step with no clause of R67 broken performs the request presented (R197). -/
theorem exec_stepOnce_of_granted {s : State} (hb : brokenInvariant s = none) (hg : granted s = true) :
    exec .stepOnce s = (performNext s).outcome := by
  simp only [granted, Bool.and_eq_true, Bool.not_eq_true'] at hg
  obtain ⟨⟨⟨h1, h2⟩, h3⟩, h4⟩ := hg
  have hc : s.cpuState = .running := by simpa using h2
  simp [exec, execStepOnce, runStep, h1, hb, h3, h4, hc]

/-! ### Channels and the bus -/

@[simp] theorem setChannel_setChannel (c : Chan) (a b : Channel) (s : State) :
    setChannel c b (setChannel c a s) = setChannel c b s := by simp [setChannel]

@[simp] theorem driveBus_driveBus (v w : Byte) (s : State) : driveBus w (driveBus v s) = driveBus w s := rfl

/-- The bus is put outside a channel update. -/
theorem setChannel_driveBus (c : Chan) (ch : Channel) (v : Byte) (s : State) :
    setChannel c ch (driveBus v s) = driveBus v (setChannel c ch s) := rfl

@[simp] theorem channel_driveBus (c : Chan) (v : Byte) (s : State) : channel (driveBus v s) c = channel s c := rfl

@[simp] theorem regionKind_driveBus (a : Addr) (v : Byte) (s : State) :
    regionKind (driveBus v s) a = regionKind s a := rfl

@[simp] theorem regionKind_setChannel (a : Addr) (c : Chan) (ch : Channel) (s : State) :
    regionKind (setChannel c ch s) a = regionKind s a := rfl

@[simp] theorem location_driveBus (a : Addr) (v : Byte) (s : State) :
    location (driveBus v s) a = location s a := rfl

@[simp] theorem location_setChannel (a : Addr) (c : Chan) (ch : Channel) (s : State) :
    location (setChannel c ch s) a = location s a := rfl

/-- A table byte in plain memory (R322). -/
theorem hdmaFetch_plain {c : Chan} {s : State} (hd : dmaRegWindow (tableAddr (channel s c)) = false)
    (hr : regionKind s (tableAddr (channel s c)) = some .ram) :
    hdmaFetch c s = .ok (readByte s.mem (location s (tableAddr (channel s c))))
      (driveBus (readByte s.mem (location s (tableAddr (channel s c))))
        (setChannel c { channel s c with a2a := (channel s c).a2a + 1 } s)) := by
  simp [hdmaFetch, hd, memRead, windowReg_of_not_dmaRegWindow hd, routerMemRead, routerRead, hr, Run.bind,
    setChannel_driveBus]

end Sys2Proof.Machine
end

