-- ==== Sys2Proof/Laws/Moves.lean ====
section
/-! SUPPORT. What a transfer between plain memory on both sides does, as equations, and the states a burst goes
through, channel after channel. -/

namespace Sys2Proof.Machine

/-- Router memory with one byte copied from one place to another. -/
def copyByte (src dst : Nat) (s : State) : State :=
  driveBus (readByte s.mem src) { s with mem := writeByte dst (readByte s.mem src) s.mem }

/-- A read of plain memory (R95). -/
theorem memRead_ram {a : Addr} {s : State} (hw : windowReg a = none) (hr : regionKind s a = some .ram) :
    memRead a s = .ok (readByte s.mem (location s a)) (driveBus (readByte s.mem (location s a)) s) := by
  simp [memRead, hw, routerMemRead, routerRead, hr]

/-- A write of plain memory (R95). -/
theorem memWrite_ram {a : Addr} {s : State} (v : Byte) (hw : windowReg a = none) (hr : regionKind s a = some .ram) :
    memWrite a v s = .ok () (driveBus v { s with mem := writeByte (location s a) v s.mem }) := by
  simp [memWrite, hw, routerMemWrite, routerWrite, hr]
  rfl

/-- One byte moved by a DMA between plain memory on both sides (R297). -/
theorem moveByte_ram {ch : Channel} {a : Addr} {b : Byte} {s : State} (ha : dmaRegWindow a = false)
    (hb : windowReg (bBusAddr b) = none) (hra : regionKind s a = some .ram) (hrb : regionKind s (bBusAddr b) = some .ram) :
    moveByte ch a b s = .ok ()
      (copyByte (location s (if toABus ch then bBusAddr b else a)) (location s (if toABus ch then a else bBusAddr b)) s) := by
  have hw := windowReg_of_not_dmaRegWindow ha
  cases hd : toABus ch <;>
    simp [moveByte, hd, bRead, bWrite, memRead_ram, memWrite_ram, hw, hb, hra, hrb, Run.bind, copyByte] <;> rfl

/-- The states that handling some channels one after the other goes through (R331). -/
theorem forChannels_chain {f : Chan → Burst → State → Run Burst} :
    ∀ (l : List Chan) (b b' : Burst) (s t : State), forChannels f l b s = .ok b' t →
      ∃ (states : Nat → State) (bursts : Nat → Burst), states 0 = s ∧ bursts 0 = b ∧ states l.length = t ∧
        bursts l.length = b' ∧
        ∀ i (h : i < l.length), f l[i] (bursts i) (states i) = .ok (bursts (i + 1)) (states (i + 1)) := by
  intro l
  induction l with
  | nil =>
    intro b b' s t h
    cases h
    exact ⟨fun _ => s, fun _ => b, rfl, rfl, rfl, rfl, fun i h => absurd h (by simp)⟩
  | cons c rest ih =>
    intro b b' s t h
    simp only [forChannels] at h
    cases hf : f c b s with
    | ok b1 s1 =>
      rw [hf] at h
      obtain ⟨states, bursts, h0, g0, hn, gn, hs⟩ := ih b1 b' s1 t h
      refine ⟨fun i => if i = 0 then s else states (i - 1), fun i => if i = 0 then b else bursts (i - 1),
        rfl, rfl, by simpa using hn, by simpa using gn, ?_⟩
      intro i hi
      cases i with
      | zero => simpa [h0, g0] using hf
      | succ i => simpa using hs i (by simpa using hi)
    | raised u => rw [hf] at h; cases h
    | stuck u => rw [hf] at h; cases h
    | refused u => rw [hf] at h; cases h

end Sys2Proof.Machine
end

