-- ==== Sys2Proof/Laws/PerInstr.lean ====
section
/-! SUPPORT. What holds of every instruction as syntax, one lemma per constructor: its word has the format of
its row of opcode_table.json and sets no bit above that format's width. -/

namespace Sys2Proof.Laws

/-- A packet of format `f` with no bit above the format's width (R120). -/
abbrev Fits (f : Format) (p : Packet) : Prop := p.format = f ∧ p.bits.toNat < 2 ^ f.width

theorem busopWord_fits {k : Nat} (hk : k < 16) (a : Addr) (v : Byte) : Fits .busop (busopWord k a v) := by
  refine ⟨rfl, ?_⟩
  have := a.isLt
  have := v.isLt
  simp only [busopWord, BitVec.toNat_ofNat, Format.width]
  omega

theorem portOffset_lt (p : PortReg) : p.offset < 2 ^ 15 := by cases p <;> decide

theorem regOffset_lt (r : Reg) : r.offset < 2 ^ 15 := by
  cases r with
  | port p => exact portOffset_lt p
  | chan c r => revert c; cases r <;> decide
  | tail low => have := low.isLt; simp only [Reg.offset]; omega

theorem mmioWord_fits (w : Bool) (bank : Byte) (r : Reg) : Fits .mmio (mmioWord w bank r) := by
  refine ⟨rfl, ?_⟩
  have := bank.isLt
  have := regOffset_lt r
  have := w.toNat_le
  simp only [mmioWord, BitVec.toNat_ofNat, Format.width]
  omega

theorem cmdWord_fits (op ev arg : Nat) : Fits .cmd (cmdWord op ev arg) := ⟨rfl, BitVec.isLt _⟩

theorem eventWord_fits (e : EventId) : Fits .event (eventWord e) := by cases e <;> exact ⟨rfl, by decide⟩

/-- The word of a well-formed instruction has its row's format and fits its width (R120). -/
def WordFits.Statement (i : Instr) : Prop := i.wellFormed = true → Fits (rowOf i).format (encode i)

theorem WordFits.fetch (addr : Addr) : WordFits.Statement (.fetch addr) := fun _ => busopWord_fits (by decide) _ _
theorem WordFits.readOperand (addr : Addr) : WordFits.Statement (.readOperand addr) :=
  fun _ => busopWord_fits (by decide) _ _
theorem WordFits.memoryLoad (addr : Addr) : WordFits.Statement (.memoryLoad addr) :=
  fun _ => busopWord_fits (by decide) _ _
theorem WordFits.memoryStore (addr : Addr) (data : Byte) : WordFits.Statement (.memoryStore addr data) :=
  fun _ => busopWord_fits (by decide) _ _
theorem WordFits.dummyRead (addr : Addr) : WordFits.Statement (.dummyRead addr) :=
  fun _ => busopWord_fits (by decide) _ _
theorem WordFits.idle : WordFits.Statement .idle := fun _ => busopWord_fits (by decide) _ _
theorem WordFits.halt : WordFits.Statement .halt := fun _ => busopWord_fits (by decide) _ _
theorem WordFits.stop : WordFits.Statement .stop := fun _ => busopWord_fits (by decide) _ _
theorem WordFits.nmiAck : WordFits.Statement .nmiAck := fun _ => busopWord_fits (by decide) _ _
theorem WordFits.rSlhv (bank : Byte) : WordFits.Statement (.rSlhv bank) := fun _ => mmioWord_fits _ _ _
theorem WordFits.wSlhv (bank : Byte) : WordFits.Statement (.wSlhv bank) := fun _ => mmioWord_fits _ _ _
theorem WordFits.rOphct (bank : Byte) : WordFits.Statement (.rOphct bank) := fun _ => mmioWord_fits _ _ _
theorem WordFits.wOphct (bank : Byte) : WordFits.Statement (.wOphct bank) := fun _ => mmioWord_fits _ _ _
theorem WordFits.rOpvct (bank : Byte) : WordFits.Statement (.rOpvct bank) := fun _ => mmioWord_fits _ _ _
theorem WordFits.wOpvct (bank : Byte) : WordFits.Statement (.wOpvct bank) := fun _ => mmioWord_fits _ _ _
theorem WordFits.rStat78 (bank : Byte) : WordFits.Statement (.rStat78 bank) := fun _ => mmioWord_fits _ _ _
theorem WordFits.wStat78 (bank : Byte) : WordFits.Statement (.wStat78 bank) := fun _ => mmioWord_fits _ _ _
theorem WordFits.rNmitimen (bank : Byte) : WordFits.Statement (.rNmitimen bank) := fun _ => mmioWord_fits _ _ _
theorem WordFits.wNmitimen (bank : Byte) : WordFits.Statement (.wNmitimen bank) := fun _ => mmioWord_fits _ _ _
theorem WordFits.rWrio (bank : Byte) : WordFits.Statement (.rWrio bank) := fun _ => mmioWord_fits _ _ _
theorem WordFits.wWrio (bank : Byte) : WordFits.Statement (.wWrio bank) := fun _ => mmioWord_fits _ _ _
theorem WordFits.rHtimel (bank : Byte) : WordFits.Statement (.rHtimel bank) := fun _ => mmioWord_fits _ _ _
theorem WordFits.wHtimel (bank : Byte) : WordFits.Statement (.wHtimel bank) := fun _ => mmioWord_fits _ _ _
theorem WordFits.rHtimeh (bank : Byte) : WordFits.Statement (.rHtimeh bank) := fun _ => mmioWord_fits _ _ _
theorem WordFits.wHtimeh (bank : Byte) : WordFits.Statement (.wHtimeh bank) := fun _ => mmioWord_fits _ _ _
theorem WordFits.rVtimel (bank : Byte) : WordFits.Statement (.rVtimel bank) := fun _ => mmioWord_fits _ _ _
theorem WordFits.wVtimel (bank : Byte) : WordFits.Statement (.wVtimel bank) := fun _ => mmioWord_fits _ _ _
theorem WordFits.rVtimeh (bank : Byte) : WordFits.Statement (.rVtimeh bank) := fun _ => mmioWord_fits _ _ _
theorem WordFits.wVtimeh (bank : Byte) : WordFits.Statement (.wVtimeh bank) := fun _ => mmioWord_fits _ _ _
theorem WordFits.rMdmaen (bank : Byte) : WordFits.Statement (.rMdmaen bank) := fun _ => mmioWord_fits _ _ _
theorem WordFits.wMdmaen (bank : Byte) : WordFits.Statement (.wMdmaen bank) := fun _ => mmioWord_fits _ _ _
theorem WordFits.rHdmaen (bank : Byte) : WordFits.Statement (.rHdmaen bank) := fun _ => mmioWord_fits _ _ _
theorem WordFits.wHdmaen (bank : Byte) : WordFits.Statement (.wHdmaen bank) := fun _ => mmioWord_fits _ _ _
theorem WordFits.rMemsel (bank : Byte) : WordFits.Statement (.rMemsel bank) := fun _ => mmioWord_fits _ _ _
theorem WordFits.wMemsel (bank : Byte) : WordFits.Statement (.wMemsel bank) := fun _ => mmioWord_fits _ _ _
theorem WordFits.rRdnmi (bank : Byte) : WordFits.Statement (.rRdnmi bank) := fun _ => mmioWord_fits _ _ _
theorem WordFits.wRdnmi (bank : Byte) : WordFits.Statement (.wRdnmi bank) := fun _ => mmioWord_fits _ _ _
theorem WordFits.rTimeup (bank : Byte) : WordFits.Statement (.rTimeup bank) := fun _ => mmioWord_fits _ _ _
theorem WordFits.wTimeup (bank : Byte) : WordFits.Statement (.wTimeup bank) := fun _ => mmioWord_fits _ _ _
theorem WordFits.rHvbjoy (bank : Byte) : WordFits.Statement (.rHvbjoy bank) := fun _ => mmioWord_fits _ _ _
theorem WordFits.wHvbjoy (bank : Byte) : WordFits.Statement (.wHvbjoy bank) := fun _ => mmioWord_fits _ _ _
theorem WordFits.rJoy1l (bank : Byte) : WordFits.Statement (.rJoy1l bank) := fun _ => mmioWord_fits _ _ _
theorem WordFits.wJoy1l (bank : Byte) : WordFits.Statement (.wJoy1l bank) := fun _ => mmioWord_fits _ _ _
theorem WordFits.rJoy1h (bank : Byte) : WordFits.Statement (.rJoy1h bank) := fun _ => mmioWord_fits _ _ _
theorem WordFits.wJoy1h (bank : Byte) : WordFits.Statement (.wJoy1h bank) := fun _ => mmioWord_fits _ _ _
theorem WordFits.rJoy2l (bank : Byte) : WordFits.Statement (.rJoy2l bank) := fun _ => mmioWord_fits _ _ _
theorem WordFits.wJoy2l (bank : Byte) : WordFits.Statement (.wJoy2l bank) := fun _ => mmioWord_fits _ _ _
theorem WordFits.rJoy2h (bank : Byte) : WordFits.Statement (.rJoy2h bank) := fun _ => mmioWord_fits _ _ _
theorem WordFits.wJoy2h (bank : Byte) : WordFits.Statement (.wJoy2h bank) := fun _ => mmioWord_fits _ _ _
theorem WordFits.rJoy3l (bank : Byte) : WordFits.Statement (.rJoy3l bank) := fun _ => mmioWord_fits _ _ _
theorem WordFits.wJoy3l (bank : Byte) : WordFits.Statement (.wJoy3l bank) := fun _ => mmioWord_fits _ _ _
theorem WordFits.rJoy3h (bank : Byte) : WordFits.Statement (.rJoy3h bank) := fun _ => mmioWord_fits _ _ _
theorem WordFits.wJoy3h (bank : Byte) : WordFits.Statement (.wJoy3h bank) := fun _ => mmioWord_fits _ _ _
theorem WordFits.rJoy4l (bank : Byte) : WordFits.Statement (.rJoy4l bank) := fun _ => mmioWord_fits _ _ _
theorem WordFits.wJoy4l (bank : Byte) : WordFits.Statement (.wJoy4l bank) := fun _ => mmioWord_fits _ _ _
theorem WordFits.rJoy4h (bank : Byte) : WordFits.Statement (.rJoy4h bank) := fun _ => mmioWord_fits _ _ _
theorem WordFits.wJoy4h (bank : Byte) : WordFits.Statement (.wJoy4h bank) := fun _ => mmioWord_fits _ _ _
theorem WordFits.rDmap (bank : Byte) (c : Chan) : WordFits.Statement (.rDmap bank c) :=
  fun _ => mmioWord_fits _ _ _
theorem WordFits.wDmap (bank : Byte) (c : Chan) : WordFits.Statement (.wDmap bank c) :=
  fun _ => mmioWord_fits _ _ _
theorem WordFits.rBbad (bank : Byte) (c : Chan) : WordFits.Statement (.rBbad bank c) :=
  fun _ => mmioWord_fits _ _ _
theorem WordFits.wBbad (bank : Byte) (c : Chan) : WordFits.Statement (.wBbad bank c) :=
  fun _ => mmioWord_fits _ _ _
theorem WordFits.rA1tl (bank : Byte) (c : Chan) : WordFits.Statement (.rA1tl bank c) :=
  fun _ => mmioWord_fits _ _ _
theorem WordFits.wA1tl (bank : Byte) (c : Chan) : WordFits.Statement (.wA1tl bank c) :=
  fun _ => mmioWord_fits _ _ _
theorem WordFits.rA1th (bank : Byte) (c : Chan) : WordFits.Statement (.rA1th bank c) :=
  fun _ => mmioWord_fits _ _ _
theorem WordFits.wA1th (bank : Byte) (c : Chan) : WordFits.Statement (.wA1th bank c) :=
  fun _ => mmioWord_fits _ _ _
theorem WordFits.rA1b (bank : Byte) (c : Chan) : WordFits.Statement (.rA1b bank c) := fun _ => mmioWord_fits _ _ _
theorem WordFits.wA1b (bank : Byte) (c : Chan) : WordFits.Statement (.wA1b bank c) := fun _ => mmioWord_fits _ _ _
theorem WordFits.rDasl (bank : Byte) (c : Chan) : WordFits.Statement (.rDasl bank c) :=
  fun _ => mmioWord_fits _ _ _
theorem WordFits.wDasl (bank : Byte) (c : Chan) : WordFits.Statement (.wDasl bank c) :=
  fun _ => mmioWord_fits _ _ _
theorem WordFits.rDash (bank : Byte) (c : Chan) : WordFits.Statement (.rDash bank c) :=
  fun _ => mmioWord_fits _ _ _
theorem WordFits.wDash (bank : Byte) (c : Chan) : WordFits.Statement (.wDash bank c) :=
  fun _ => mmioWord_fits _ _ _
theorem WordFits.rDasb (bank : Byte) (c : Chan) : WordFits.Statement (.rDasb bank c) :=
  fun _ => mmioWord_fits _ _ _
theorem WordFits.wDasb (bank : Byte) (c : Chan) : WordFits.Statement (.wDasb bank c) :=
  fun _ => mmioWord_fits _ _ _
theorem WordFits.rA2al (bank : Byte) (c : Chan) : WordFits.Statement (.rA2al bank c) :=
  fun _ => mmioWord_fits _ _ _
theorem WordFits.wA2al (bank : Byte) (c : Chan) : WordFits.Statement (.wA2al bank c) :=
  fun _ => mmioWord_fits _ _ _
theorem WordFits.rA2ah (bank : Byte) (c : Chan) : WordFits.Statement (.rA2ah bank c) :=
  fun _ => mmioWord_fits _ _ _
theorem WordFits.wA2ah (bank : Byte) (c : Chan) : WordFits.Statement (.wA2ah bank c) :=
  fun _ => mmioWord_fits _ _ _
theorem WordFits.rNtrl (bank : Byte) (c : Chan) : WordFits.Statement (.rNtrl bank c) :=
  fun _ => mmioWord_fits _ _ _
theorem WordFits.wNtrl (bank : Byte) (c : Chan) : WordFits.Statement (.wNtrl bank c) :=
  fun _ => mmioWord_fits _ _ _
theorem WordFits.rUnused (bank : Byte) (c : Chan) : WordFits.Statement (.rUnused bank c) :=
  fun _ => mmioWord_fits _ _ _
theorem WordFits.wUnused (bank : Byte) (c : Chan) : WordFits.Statement (.wUnused bank c) :=
  fun _ => mmioWord_fits _ _ _
theorem WordFits.rUnusedMirror (bank : Byte) (c : Chan) : WordFits.Statement (.rUnusedMirror bank c) :=
  fun _ => mmioWord_fits _ _ _
theorem WordFits.wUnusedMirror (bank : Byte) (c : Chan) : WordFits.Statement (.wUnusedMirror bank c) :=
  fun _ => mmioWord_fits _ _ _
theorem WordFits.rGapC (bank : Byte) (c : Chan) : WordFits.Statement (.rGapC bank c) :=
  fun _ => mmioWord_fits _ _ _
theorem WordFits.wGapC (bank : Byte) (c : Chan) : WordFits.Statement (.wGapC bank c) :=
  fun _ => mmioWord_fits _ _ _
theorem WordFits.rGapD (bank : Byte) (c : Chan) : WordFits.Statement (.rGapD bank c) :=
  fun _ => mmioWord_fits _ _ _
theorem WordFits.wGapD (bank : Byte) (c : Chan) : WordFits.Statement (.wGapD bank c) :=
  fun _ => mmioWord_fits _ _ _
theorem WordFits.rGapE (bank : Byte) (c : Chan) : WordFits.Statement (.rGapE bank c) :=
  fun _ => mmioWord_fits _ _ _
theorem WordFits.wGapE (bank : Byte) (c : Chan) : WordFits.Statement (.wGapE bank c) :=
  fun _ => mmioWord_fits _ _ _
theorem WordFits.rTail (bank : Byte) (low : BitVec 7) : WordFits.Statement (.rTail bank low) :=
  fun _ => mmioWord_fits _ _ _
theorem WordFits.wTail (bank : Byte) (low : BitVec 7) : WordFits.Statement (.wTail bank low) :=
  fun _ => mmioWord_fits _ _ _
theorem WordFits.schedule (ev : EventId) (delay : BitVec 48) : WordFits.Statement (.schedule ev delay) :=
  fun _ => cmdWord_fits _ _ _
theorem WordFits.reschedule (ev : EventId) (delay : BitVec 48) : WordFits.Statement (.reschedule ev delay) :=
  fun _ => cmdWord_fits _ _ _
theorem WordFits.deschedule (ev : EventId) : WordFits.Statement (.deschedule ev) := fun _ => cmdWord_fits _ _ _
theorem WordFits.advance (cycles : BitVec 48) : WordFits.Statement (.advance cycles) := fun _ => cmdWord_fits _ _ _
theorem WordFits.anyEventDue : WordFits.Statement .anyEventDue := fun _ => cmdWord_fits _ _ _
theorem WordFits.stepOnce : WordFits.Statement .stepOnce := fun _ => cmdWord_fits _ _ _
theorem WordFits.scheduleAt (ev : EventId) (time : BitVec 48) : WordFits.Statement (.scheduleAt ev time) :=
  fun _ => cmdWord_fits _ _ _
theorem WordFits.reset : WordFits.Statement .reset := fun _ => cmdWord_fits _ _ _
theorem WordFits.runFrame : WordFits.Statement .runFrame := fun _ => cmdWord_fits _ _ _
theorem WordFits.runInstruction : WordFits.Statement .runInstruction := fun _ => cmdWord_fits _ _ _
theorem WordFits.setKey (bit : BitVec 4) (port : BitVec 1) (pressed : Bool) : WordFits.Statement (.setKey bit port pressed) :=
  fun _ => cmdWord_fits _ _ _
theorem WordFits.pause : WordFits.Statement .pause := fun _ => cmdWord_fits _ _ _
theorem WordFits.resume : WordFits.Statement .resume := fun _ => cmdWord_fits _ _ _
theorem WordFits.isPaused : WordFits.Statement .isPaused := fun _ => cmdWord_fits _ _ _
theorem WordFits.evIrq : WordFits.Statement .evIrq := fun _ => eventWord_fits _
theorem WordFits.evVideo : WordFits.Statement .evVideo := fun _ => eventWord_fits _
theorem WordFits.evDma : WordFits.Statement .evDma := fun _ => eventWord_fits _
theorem WordFits.evStall : WordFits.Statement .evStall := fun _ => eventWord_fits _
theorem WordFits.evJoy : WordFits.Statement .evJoy := fun _ => eventWord_fits _

end Sys2Proof.Laws
end

