-- ==== Sys2Proof/Tests/Slice0.lean ====
section
/-! SUPPORT. Tests of the model on single steps, their expected results from the vectors of 95_test_vectors.md or
from the rules named, and for every statement with premises a witness that some state and operands meet them. -/

namespace Sys2Proof.Tests

open Sys2Proof.Machine

/-! ## Well-formedness -/

/-- R123, R91: a bank with bit 6 set is no system bank; 0x3F and 0xBF are. -/
theorem test_wellFormed_bank :
    (Instr.rSlhv 0x40).wellFormed = false ∧ (Instr.wTail 0xC0 0).wellFormed = false ∧
    (Instr.rDmap 0x7E 0).wellFormed = false ∧ (Instr.rSlhv 0x3F).wellFormed = true ∧
    (Instr.wTail 0xBF 0x7F).wellFormed = true := by decide

/-- R146: a button bit below 4 spells no operation. -/
theorem test_wellFormed_key :
    (Instr.setKey 3 0 true).wellFormed = false ∧ (Instr.setKey 4 0 true).wellFormed = true := by decide

/-! ## Decoding -/

/-- R121, R122: kind in bits 35:32, address in bits 31:8, data in bits 7:0. -/
theorem test_decode_busop :
    decodeTableWord 40 0x0008000AA = some (.fetch 0x008000) ∧
    decodeTableWord 40 0x1FFFFFF00 = some (.readOperand 0xFFFFFF) ∧
    decodeTableWord 40 0x27E001000 = some (.memoryLoad 0x7E0010) ∧
    decodeTableWord 40 0x300420B01 = some (.memoryStore 0x00420B 0x01) ∧
    decodeTableWord 40 0x400213700 = some (.dummyRead 0x002137) ∧
    decodeTableWord 40 0x500000000 = some (.idle) ∧
    decodeTableWord 40 0x600000000 = some (.halt) ∧
    decodeTableWord 40 0x700000000 = some (.stop) ∧
    decodeTableWord 40 0x8FFFFFFFF = some (.nmiAck) := by decide

/-- R123, R124: direction in bit 24, bank in bits 23:16, offset in bits 15:0. -/
theorem test_decode_port_read_1 :
    decodeTableWord 32 0x0002137 = some (.rSlhv 0x00) ∧
    decodeTableWord 32 0x03F213C = some (.rOphct 0x3F) ∧
    decodeTableWord 32 0x080213D = some (.rOpvct 0x80) ∧
    decodeTableWord 32 0x0BF213F = some (.rStat78 0xBF) ∧
    decodeTableWord 32 0x0004200 = some (.rNmitimen 0x00) ∧
    decodeTableWord 32 0x03F4201 = some (.rWrio 0x3F) ∧
    decodeTableWord 32 0x0804207 = some (.rHtimel 0x80) ∧
    decodeTableWord 32 0x0BF4208 = some (.rHtimeh 0xBF) ∧
    decodeTableWord 32 0x0004209 = some (.rVtimel 0x00) ∧
    decodeTableWord 32 0x03F420A = some (.rVtimeh 0x3F) ∧
    decodeTableWord 32 0x080420B = some (.rMdmaen 0x80) ∧
    decodeTableWord 32 0x0BF420C = some (.rHdmaen 0xBF) := by decide

/-- R123, R124: direction in bit 24, bank in bits 23:16, offset in bits 15:0. -/
theorem test_decode_port_read_2 :
    decodeTableWord 32 0x000420D = some (.rMemsel 0x00) ∧
    decodeTableWord 32 0x03F4210 = some (.rRdnmi 0x3F) ∧
    decodeTableWord 32 0x0804211 = some (.rTimeup 0x80) ∧
    decodeTableWord 32 0x0BF4212 = some (.rHvbjoy 0xBF) ∧
    decodeTableWord 32 0x0004218 = some (.rJoy1l 0x00) ∧
    decodeTableWord 32 0x03F4219 = some (.rJoy1h 0x3F) ∧
    decodeTableWord 32 0x080421A = some (.rJoy2l 0x80) ∧
    decodeTableWord 32 0x0BF421B = some (.rJoy2h 0xBF) ∧
    decodeTableWord 32 0x000421C = some (.rJoy3l 0x00) ∧
    decodeTableWord 32 0x03F421D = some (.rJoy3h 0x3F) ∧
    decodeTableWord 32 0x080421E = some (.rJoy4l 0x80) ∧
    decodeTableWord 32 0x0BF421F = some (.rJoy4h 0xBF) := by decide

/-- R123, R125: channel in bits 6:4, register number in bits 3:0. -/
theorem test_decode_channel_read_1 :
    decodeTableWord 32 0x0004300 = some (.rDmap 0x00 0) ∧
    decodeTableWord 32 0x03F4331 = some (.rBbad 0x3F 3) ∧
    decodeTableWord 32 0x0804362 = some (.rA1tl 0x80 6) ∧
    decodeTableWord 32 0x0BF4313 = some (.rA1th 0xBF 1) ∧
    decodeTableWord 32 0x0004344 = some (.rA1b 0x00 4) ∧
    decodeTableWord 32 0x03F4375 = some (.rDasl 0x3F 7) ∧
    decodeTableWord 32 0x0804326 = some (.rDash 0x80 2) ∧
    decodeTableWord 32 0x0BF4357 = some (.rDasb 0xBF 5) ∧
    decodeTableWord 32 0x0004308 = some (.rA2al 0x00 0) := by decide

/-- R123, R125: channel in bits 6:4, register number in bits 3:0. -/
theorem test_decode_channel_read_2 :
    decodeTableWord 32 0x03F4339 = some (.rA2ah 0x3F 3) ∧
    decodeTableWord 32 0x080436A = some (.rNtrl 0x80 6) ∧
    decodeTableWord 32 0x0BF431B = some (.rUnused 0xBF 1) ∧
    decodeTableWord 32 0x000434F = some (.rUnusedMirror 0x00 4) ∧
    decodeTableWord 32 0x03F437C = some (.rGapC 0x3F 7) ∧
    decodeTableWord 32 0x080432D = some (.rGapD 0x80 2) ∧
    decodeTableWord 32 0x0BF435E = some (.rGapE 0xBF 5) ∧
    decodeTableWord 32 0x0BF4380 = some (.rTail 0xBF 0x00) ∧
    decodeTableWord 32 0x00043FF = some (.rTail 0x00 0x7F) := by decide

/-- R123, R124: direction in bit 24, bank in bits 23:16, offset in bits 15:0. -/
theorem test_decode_port_write_1 :
    decodeTableWord 32 0x13F2137 = some (.wSlhv 0x3F) ∧
    decodeTableWord 32 0x180213C = some (.wOphct 0x80) ∧
    decodeTableWord 32 0x1BF213D = some (.wOpvct 0xBF) ∧
    decodeTableWord 32 0x100213F = some (.wStat78 0x00) ∧
    decodeTableWord 32 0x13F4200 = some (.wNmitimen 0x3F) ∧
    decodeTableWord 32 0x1804201 = some (.wWrio 0x80) ∧
    decodeTableWord 32 0x1BF4207 = some (.wHtimel 0xBF) ∧
    decodeTableWord 32 0x1004208 = some (.wHtimeh 0x00) ∧
    decodeTableWord 32 0x13F4209 = some (.wVtimel 0x3F) ∧
    decodeTableWord 32 0x180420A = some (.wVtimeh 0x80) ∧
    decodeTableWord 32 0x1BF420B = some (.wMdmaen 0xBF) ∧
    decodeTableWord 32 0x100420C = some (.wHdmaen 0x00) := by decide

/-- R123, R124: direction in bit 24, bank in bits 23:16, offset in bits 15:0. -/
theorem test_decode_port_write_2 :
    decodeTableWord 32 0x13F420D = some (.wMemsel 0x3F) ∧
    decodeTableWord 32 0x1804210 = some (.wRdnmi 0x80) ∧
    decodeTableWord 32 0x1BF4211 = some (.wTimeup 0xBF) ∧
    decodeTableWord 32 0x1004212 = some (.wHvbjoy 0x00) ∧
    decodeTableWord 32 0x13F4218 = some (.wJoy1l 0x3F) ∧
    decodeTableWord 32 0x1804219 = some (.wJoy1h 0x80) ∧
    decodeTableWord 32 0x1BF421A = some (.wJoy2l 0xBF) ∧
    decodeTableWord 32 0x100421B = some (.wJoy2h 0x00) ∧
    decodeTableWord 32 0x13F421C = some (.wJoy3l 0x3F) ∧
    decodeTableWord 32 0x180421D = some (.wJoy3h 0x80) ∧
    decodeTableWord 32 0x1BF421E = some (.wJoy4l 0xBF) ∧
    decodeTableWord 32 0x100421F = some (.wJoy4h 0x00) := by decide

/-- R123, R125: channel in bits 6:4, register number in bits 3:0. -/
theorem test_decode_channel_write_1 :
    decodeTableWord 32 0x13F4310 = some (.wDmap 0x3F 1) ∧
    decodeTableWord 32 0x1804341 = some (.wBbad 0x80 4) ∧
    decodeTableWord 32 0x1BF4372 = some (.wA1tl 0xBF 7) ∧
    decodeTableWord 32 0x1004323 = some (.wA1th 0x00 2) ∧
    decodeTableWord 32 0x13F4354 = some (.wA1b 0x3F 5) ∧
    decodeTableWord 32 0x1804305 = some (.wDasl 0x80 0) ∧
    decodeTableWord 32 0x1BF4336 = some (.wDash 0xBF 3) ∧
    decodeTableWord 32 0x1004367 = some (.wDasb 0x00 6) ∧
    decodeTableWord 32 0x13F4318 = some (.wA2al 0x3F 1) := by decide

/-- R123, R125: channel in bits 6:4, register number in bits 3:0. -/
theorem test_decode_channel_write_2 :
    decodeTableWord 32 0x1804349 = some (.wA2ah 0x80 4) ∧
    decodeTableWord 32 0x1BF437A = some (.wNtrl 0xBF 7) ∧
    decodeTableWord 32 0x100432B = some (.wUnused 0x00 2) ∧
    decodeTableWord 32 0x13F435F = some (.wUnusedMirror 0x3F 5) ∧
    decodeTableWord 32 0x180430C = some (.wGapC 0x80 0) ∧
    decodeTableWord 32 0x1BF433D = some (.wGapD 0xBF 3) ∧
    decodeTableWord 32 0x100436E = some (.wGapE 0x00 6) ∧
    decodeTableWord 32 0x1BF4380 = some (.wTail 0xBF 0x00) ∧
    decodeTableWord 32 0x10043FF = some (.wTail 0x00 0x7F) := by decide

/-- R126: op in bits 63:56, event in bits 55:52, argument in bits 47:0. -/
theorem test_decode_cmd_scheduler :
    decodeTableWord 64 0x010000000000000E = some (.schedule .irq 14) ∧
    decodeTableWord 64 0x0220000000000028 = some (.reschedule .dma 40) ∧
    decodeTableWord 64 0x0340000000000000 = some (.deschedule .joy) ∧
    decodeTableWord 64 0x040000000000000C = some (.advance 12) ∧
    decodeTableWord 64 0x0500000000000000 = some (.anyEventDue) ∧
    decodeTableWord 64 0x0600000000000000 = some (.stepOnce) ∧
    decodeTableWord 64 0x0730FFFFFFFFFFFF = some (.scheduleAt .stall 0xFFFFFFFFFFFF) := by decide

/-- R126, R394: SET_KEY takes its bit from 11:8, its port from 4, pressed from 0. -/
theorem test_decode_cmd_host :
    decodeTableWord 64 0x1000000000000000 = some (.reset) ∧
    decodeTableWord 64 0x1100000000000000 = some (.runFrame) ∧
    decodeTableWord 64 0x1200000000000000 = some (.runInstruction) ∧
    decodeTableWord 64 0x1300000000000C01 = some (.setKey 12 0 true) ∧
    decodeTableWord 64 0x1300000000000711 = some (.setKey 7 1 true) ∧
    decodeTableWord 64 0x1300000000000F10 = some (.setKey 15 1 false) ∧
    decodeTableWord 64 0x1400000000000000 = some (.pause) ∧
    decodeTableWord 64 0x1500000000000000 = some (.resume) ∧
    decodeTableWord 64 0x1600000000000000 = some (.isPaused) := by decide

/-- R127. -/
theorem test_decode_event :
    decodeTableWord 8 0x0 = some (.evIrq) ∧
    decodeTableWord 8 0x1 = some (.evVideo) ∧
    decodeTableWord 8 0x2 = some (.evDma) ∧
    decodeTableWord 8 0x3 = some (.evStall) ∧
    decodeTableWord 8 0x4 = some (.evJoy) := by decide
/-- R123, R146, V-FLT-6 to V-FLT-8: words that spell nothing. -/
theorem test_decode_refused :
    decode ⟨.busop, 0x900000000⟩ = .error (.badKind 9) ∧ decode ⟨.cmd, 0⟩ = .error (.badOp 0) ∧
    decode ⟨.cmd, 0x0601000000000000⟩ = .error (.reservedBits 1) ∧ decode ⟨.event, 5⟩ = .error (.badEvent 5) ∧
    decode ⟨.cmd, 0x1300000000000301⟩ = .error (.badKeyBit 3) ∧
    decode ⟨.mmio, 0x1404200⟩ = .error (.outsideWindow true 0x404200) ∧
    decode ⟨.mmio, 0x0004202⟩ = .error (.outsideWindow false 0x004202) ∧
    decode ⟨.event, 0x10⟩ = .error .tooWide := ⟨rfl, rfl, rfl, rfl, rfl, rfl, rfl, rfl⟩

/-- R123: the encoder writes the fields the decoder reads. -/
theorem test_encode :
    encode (.memoryStore 0x00420B 0x01) = ⟨.busop, 0x300420B01⟩ ∧ encode (.wA2ah 0x80 6) = ⟨.mmio, 0x1804369⟩ ∧
    encode (.setKey 12 0 true) = ⟨.cmd, 0x1300000000000C01⟩ ∧ encode .evJoy = ⟨.event, 4⟩ := by decide

/-! ## States for the tests -/

/-- The reset state with the byte on the bus named. -/
def quiet : State := { State.reset with openBus := 0x00 }

/-- The reset state with a byte on the bus, as a write row takes it. -/
def bus (v : Byte) : State := { quiet with openBus := v }

/-- The state an instruction leads to. -/
def after (i : Instr) (s : State) : State :=
  match exec i s with
  | .next t => t
  | _ => s

/-- A state at a position of the frame, with EV_VIDEO due. -/
def position (v d : Nat) : State := { quiet with scanline := v, dot := d, committed := 4 }

/-- A state with one event queued beside EV_VIDEO. -/
def withEvent (e : EventId) (t : Nat) (s : State) : State :=
  { s with events := setEvent s.events e { when := t, seq := s.seqCounter, queued := true }, seqCounter := s.seqCounter + 1 }

/-- A channel with every register written: pattern 1, A-bus to B-bus, from `$7E:1000` to B-bus `$18`, four bytes. -/
def loaded : Channel :=
  { Channel.reset with dmap := 0x01, bbad := 0x18, a1t := 0x1000, a1b := 0x7E, das := 4, written := 0xFFF }

/-- A state with channel 0 set. -/
def withChannel (ch : Channel) (s : State) : State := setChannel 0 ch s

/-- A GDMA of channel 0 with EV_DMA due. -/
def gdma (phase : GdmaPhase) (ch : Channel) : State :=
  { withChannel ch (withEvent .dma 56 quiet) with
    committed := 56, mdmaen := 0x01, gdmaActive := true, gdmaPhase := phase, mem := [(0x7E1000, 0x11)] }

/-- A state with HDMA live on channel 0. -/
def hdma (ch : Channel) (s : State) : State :=
  { withChannel { ch with hdmaTerminated := false } s with hdmaen := 0x01 }

/-- The reset state with the router's table named. -/
def routed (k : RegionKind) : State := { bus 0x42 with regions := [{ lo := 0x200000, hi := 0x2FFFFF, kind := k, target := 0x200000 }] }

/-- The reset state with 8 KiB of memory seen at `$00:0000` and mirrored at `$7E:0000`. -/
def mirrored : State :=
  { quiet with regions := [{ lo := 0x000000, hi := 0x001FFF, kind := .ram, target := 0x7E0000 },
                           { lo := 0x7E0000, hi := 0x7FFFFF, kind := .ram, target := 0x7E0000 }] }

/-- An IDLE of the CPU, not at a boundary. -/
def anIdle : CpuRequest := { word := 0x500000000, irqDisable := true, instrAddr := 0 }

/-- A block in the fault state. -/
def broken : State :=
  { quiet with fault := some { code := .dmaPattern, info := .pattern 0 4, instr := 0, event := some .dma } }

/-- A word waiting at the port. -/
def waiting (f : Format) (w : BitVec 64) (s : State) : State := { s with inbox := [⟨f, w⟩] }

/-! ## Single steps -/

/-- V-SCH-1, V-SCH-2, V-SCH-6, V-SCH-5. -/
theorem test_schedule :
    (event (after (.schedule .irq 14) { quiet with committed := 1000, ahead := 6 }) .irq).when = 1020 ∧
    (event (after (.scheduleAt .joy 80) quiet) .joy).when = 80 ∧
    (event (after (.reschedule .dma 40) (withEvent .dma 200 { quiet with committed := 180 })) .dma).when = 220 ∧
    (event (after (.deschedule .joy) (withEvent .joy 200 quiet)) .joy).queued = false := by decide

/-- V-SCH-2: the horizon is the earliest. -/
theorem test_horizon : queue (withEvent .joy 80 quiet) = [.video, .joy] ∧ horizon (withEvent .joy 80 quiet) = some 4 := by
  decide

/-- V-SCH-4: at one time, EV_DMA by priority, then EV_JOY and EV_STALL in the order they were queued. -/
theorem test_queue_order :
    queue (withEvent .dma 100 (withEvent .stall 100 (withEvent .joy 100 quiet))) = [.video, .dma, .joy, .stall] := by decide

/-- V-SCH-7: three ticks in one drain, and the delay to the next. -/
theorem test_advance :
    (after (.advance 12) quiet).dot = 3 ∧ (after (.advance 12) quiet).reply = .delay (some 4) := by decide

/-- V-SCH-10. -/
theorem test_advance_below_ahead :
    (after (.advance 4) { quiet with committed := 100, ahead := 8 }).fault.map FaultRecord.code = some .invariant ∧
    (after (.advance 4) { quiet with committed := 100, ahead := 8 }).committed = 100 := by decide

/-- V-SCH-8, V-SCH-9. -/
theorem test_anyEventDue :
    (after .anyEventDue { quiet with committed := 2, ahead := 2 }).reply = .bit true ∧
    (after .anyEventDue { quiet with committed := 2, ahead := 1 }).reply = .bit false := by decide

/-- V-ARB-1 to V-ARB-13, and the ends of every region of R181. -/
theorem test_wait_states :
    [0x000000, 0x001FFF, 0x002000, 0x002118, 0x003FFF, 0x004000, 0x0041FF, 0x004200, 0x005FFF, 0x006000, 0x007FFF,
      0x3FFFFF, 0x400000, 0x7FFFFF, 0xC00000, 0xFFFFFF, 0x800000, 0xBF8000].map (fun a => waitState quiet (BitVec.ofNat 24 a)) =
    [8, 8, 6, 6, 6, 12, 12, 6, 6, 8, 8, 8, 8, 8, 8, 8, 8, 8] ∧
    [0x008000, 0x808000, 0xC00000, 0xFFFFFF, 0x7E0010, 0x801000, 0x807FFF].map
      (fun a => waitState { quiet with memsel := true } (BitVec.ofNat 24 a)) = [8, 6, 6, 6, 8, 8, 8] := by decide

/-- V-ARB-15 and R183 to R188: the costs of the requests. -/
theorem test_costs :
    (after (.fetch 0x008000) quiet).ahead = 8 ∧ (after (.readOperand 0x008001) quiet).ahead = 8 ∧
    (after (.memoryLoad 0x004016) quiet).ahead = 12 ∧ (after (.memoryStore 0x002118 0) quiet).ahead = 6 ∧
    (after (.dummyRead 0x7E0010) quiet).ahead = 8 ∧ (after .idle quiet).ahead = 6 ∧ (after .halt quiet).ahead = 0 ∧
    (after .stop quiet).ahead = 0 ∧ (after .nmiAck quiet).ahead = 0 := by decide

/-- R187, R185: a stored byte is read back, and goes to the CPU; R188: a dummy read gives it to nobody. -/
theorem test_store_load :
    (after (.memoryLoad 0x7E0010) (after (.memoryStore 0x7E0010 0x5A) quiet)).cpuByte = 0x5A ∧
    (after (.dummyRead 0x7E0010) (after (.memoryStore 0x7E0010 0x5A) quiet)).cpuByte = 0x00 := by decide

/-- R12: a store through one address is read through its mirror, whose place in memory is the same (log 8). -/
theorem test_mirror :
    (after (.memoryLoad 0x7E0010) (after (.memoryStore 0x000010 0x5A) mirrored)).cpuByte = 0x5A ∧
    location mirrored 0x001FFF = 0x7E1FFF := by decide

/-- R412, R411: the numbers of the codes, and a code as the host reads it. -/
theorem test_codes :
    [FaultCode.enhancementChip, .dmaPattern, .invariant].map faultNumber = [1, 2, 3] ∧
    [Refusal.unwritten 0 0, .dmaRegWindow 0 0, .gdmaHdmaSameChannel 0, .badConfig, .badCommand].map refusalNumber =
      [some 0x81, some 0x82, some 0x83, some 0x84, some 0x85] ∧
    faultCode (after .evDma (gdma .select { loaded with dmap := 0x04 })) = some 2 ∧ faultCode quiet = none := by decide

/-- V-FLT-2: an enhancement chip; `openBus` is unchanged. -/
theorem test_chip :
    (after (.memoryLoad 0x208000) (routed .chip)).fault.map FaultRecord.info = some (.address 0x208000) ∧
    (after (.memoryLoad 0x208000) (routed .chip)).openBus = 0x42 := by decide

/-- V-ARB-19, V-ARB-20, V-ARB-21: a stopped CPU is charged to the next event; a granted IDLE is performed; an NMI
wakes a waiting CPU. -/
theorem test_stepOnce :
    (after .stepOnce { quiet with cpuState := .stopped }).dot = 1 ∧
    (after .stepOnce { quiet with
      ahead := 2, cpuScript := [anIdle] }).ahead = 8 ∧
    (after .stepOnce { quiet with cpuState := .waiting, nmiRequest := true }).cpuState = .running ∧
    (after .stepOnce { quiet with cpuState := .waiting, irqFlag := true }).cpuState = .waiting := by decide

/-- R172, R415: an empty queue where the horizon is needed, and a broken clause of R67 with its values. -/
theorem test_invariants :
    (after .stepOnce { quiet with cpuState := .stopped, events := { quiet.events with video := Event.none } }).fault.map
      FaultRecord.info = some .emptyQueue ∧
    (after .stepOnce { quiet with dot := 340 }).fault.map FaultRecord.info = some (.broken (.position 340 340 0 262)) := by
  decide

/-- R463: the vector's two bytes, then a FETCH from the address they make. -/
theorem test_boot :
    let s := { quiet with mem := [(0x00FFFC, 0x34), (0x00FFFD, 0x12)] }
    let t := after .stepOnce (after .stepOnce (after .stepOnce (after .stepOnce s)))
    (after .stepOnce s).ahead = 8 ∧ t.cpuEngine = .boundary (Config.cpuEntry 0x1234) false true 0x001234 ∧
    (presented t).word = 0x000123400 ∧ (presented t).atFetch = true :=
  ⟨by decide, rfl, by decide, by decide⟩

/-- R423: at the boundary an NMI is taken, an IRQ is not while the mask is set; in the fault state nothing is. -/
theorem test_interrupt_sample :
    let s := { quiet with cpuEngine := .boundary 0 false true 0x001234, nmiRequest := true }
    interruptTaken s = some .nmi ∧
    interruptTaken { quiet with cpuEngine := .boundary 0 false true 0x001234, irqFlag := true } = none ∧
    interruptTaken { s with cpuState := .stopped } = none ∧ interruptTaken { s with committed := 4 } = none ∧
    interruptTaken { s with cpuEngine := .vectorLow } = none := by decide

/-- R424, R425: an NMI in native mode: one NMI_ACK, the pushes of the bank, the PC and the status, the vector, the
handler with `cpuI` set. -/
theorem test_service :
    let s := { quiet with
      cpuEngine := .boundary 0 true false 0x7E1234, nmiRequest := true, mem := [(0x00FFEA, 0x00), (0x00FFEB, 0x90)] }
    let t := after .stepOnce s
    let u : Service := { kind := .nmi, nativeMode := true, code := 0, mask := false, pc := 0x7E1234 }
    t.nmiRequest = false ∧ t.ahead = 0 ∧ t.cpuEngine = .push u 0x7E [0x12, 0x34, Config.cpuStatus 0] ∧
    (presented t).word = busWord 3 (Config.cpuPushAddr 0 3) 0x7E ∧
    (presented { t with cpuEngine := .serviceLow u }).word = 0x200FFEA00 ∧
    (after .stepOnce { t with cpuEngine := .serviceHigh u 0x00 }).cpuEngine =
      .boundary (Config.cpuHandler 0 .nmi 0x9000) true true 0x009000 :=
  ⟨by decide, by decide, rfl, rfl, by decide, rfl⟩

/-- V-REG-1. -/
theorem test_rdnmi :
    (after (.rRdnmi 0) { quiet with nmiFlag := true }).openBus = 0x82 ∧
    (after (.rRdnmi 0) (after (.rRdnmi 0) { quiet with nmiFlag := true })).openBus = 0x02 := by decide

/-- V-REG-2. -/
theorem test_timeup :
    (after (.rTimeup 0) (withEvent .irq 90 { bus 0x11 with irqFlag := true })).openBus = 0x91 ∧
    (after (.rTimeup 0) (withEvent .irq 90 { bus 0x11 with irqFlag := true })).irqFlag = false ∧
    (event (after (.rTimeup 0) (withEvent .irq 90 { bus 0x11 with irqFlag := true })) .irq).queued = true := by decide

/-- V-REG-3, V-REG-4. -/
theorem test_hvbjoy :
    (after (.rHvbjoy 0) { quiet with vblank := true, autoJoyBusy := true }).openBus = 0x81 ∧
    (after (.rHvbjoy 0) { quiet with hblank := true }).openBus = 0x40 := by decide

/-- V-REG-5, V-REG-6: the low byte, then bit 8 alone. -/
theorem test_htime :
    (after (.wHtimel 0) (bus 0x64)).htime = 0x164 ∧
    (after (.wHtimeh 0) { bus 0x00 with htime := 0x164 }).htime = 0x064 := by decide

theorem test_vtime :
    (after (.wVtimel 0) (bus 0x10)).vtime = 0x110 ∧
    (after (.wVtimeh 0) { bus 0xFE with vtime := 0x110 }).vtime = 0x010 := by decide

/-- V-REG-7. -/
theorem test_memsel : (after (.fetch 0x808000) (after (.wMemsel 0) (bus 0xFF))).ahead = 6 := by decide

/-- V-REG-8, V-REG-14: open bus. -/
theorem test_open_bus :
    (after (.memoryLoad 0x00420B) (bus 0x42)).openBus = 0x42 ∧ (after (.memoryLoad 0x00430D) (bus 0x42)).cpuByte = 0x42 := by
  decide

/-- V-REG-9, V-REG-26, V-REG-15: stores that change only the bus. -/
theorem test_ignored_store :
    after (.memoryStore 0x004211 0x00) { bus 0x13 with irqFlag := true } = { quiet with irqFlag := true, ahead := 6 } ∧
    after (.memoryStore 0x00213F 0x00) (bus 0x13) = { quiet with ahead := 6 } ∧
    after (.memoryStore 0x004385 0x01) (withChannel loaded quiet) = { withChannel loaded (bus 0x01) with ahead := 6 } := by
  decide

/-- V-REG-10, V-REG-11, V-REG-12. -/
theorem test_channel_registers :
    (after (.rDmap 0 3) { after (.wDmap 0 3) (bus 0xA5) with openBus := 0x00 }).openBus = 0xA5 ∧
    (channel (after (.memoryStore 0x004326 0x12) (after (.memoryStore 0x004325 0x34) quiet)) 2).das = 0x1234 ∧
    (after (.memoryLoad 0x00430F) (after (.memoryStore 0x00430B 0x5A) quiet)).cpuByte = 0x5A := by decide

/-- V-REG-16, V-REG-17: a fall of `wrio[7]` latches; nothing else does. -/
theorem test_wrio :
    (after (.wWrio 0) { bus 0x7F with scanline := 3, dot := 50 }).latchH = 50 ∧
    (after (.wWrio 0) { bus 0x7F with scanline := 3, dot := 50 }).latchV = 3 ∧
    (after (.wWrio 0) { bus 0x80 with wrio := 0x00 }).latchFlag = false := by decide

/-- V-REG-18, V-REG-19. -/
theorem test_slhv :
    (after (.rSlhv 0) { quiet with scanline := 20, dot := 100 }).latchH = 100 ∧
    (after (.rSlhv 0) { quiet with wrio := 0x7F, scanline := 20, dot := 100 }).latchFlag = false := by decide

/-- V-REG-20: the low byte, then bit 8 under free bits. -/
theorem test_ophct :
    (after (.rOphct 0) { quiet with latchH := 0x155 }).openBus = 0x55 ∧
    (after (.rOphct 0) { quiet with latchH := 0x155 }).ophctFF = true ∧
    (after (.rOphct 0) { quiet with latchH := 0x155, ophctFF := true }).ophctFF = false := by decide

/-- V-REG-21. -/
theorem test_opvct :
    (after (.rOpvct 0) { quiet with latchV := 20 }).openBus = 0x14 ∧
    (after (.rOpvct 0) { quiet with latchV := 20 }).opvctFF = true := by decide

/-- V-REG-22, the bits the rule fixes. -/
theorem test_stat78 :
    (after (.rStat78 0) { quiet with field := true, latchFlag := true, ophctFF := true, opvctFF := true }).latchFlag = false ∧
    (after (.rStat78 0) { quiet with ophctFF := true, opvctFF := true }).ophctFF = false := by decide

/-- V-REG-23. -/
theorem test_nmitimen :
    (after (.wNmitimen 0) (withEvent .irq 90 { bus 0x80 with nmiFlag := true, irqFlag := true })).nmiRequest = true ∧
    (after (.wNmitimen 0) (withEvent .irq 90 { bus 0x80 with nmiFlag := true, irqFlag := true })).irqFlag = false ∧
    (event (after (.wNmitimen 0) (withEvent .irq 90 { bus 0x80 with nmiFlag := true, irqFlag := true })) .irq).queued
      = false := by decide

/-- V-REG-24. -/
theorem test_joy :
    (after (.rJoy1l 0) { quiet with joy := #v[0x1280, 0, 0, 0] }).openBus = 0x80 ∧
    (after (.rJoy1h 0) { quiet with joy := #v[0x1280, 0, 0, 0] }).openBus = 0x12 := by decide

/-- V-GDMA-2: the alignment of the arming, with stores at 42, 44 and 48. -/
theorem test_mdmaen :
    [42, 44, 48].map (fun t => (event (after (.wMdmaen 0) { bus 0x01 with committed := t }) .dma).when) = [56, 64, 64] := by
  decide

/-- V-GDMA-3: the highest channel first. -/
theorem test_gdma_select :
    (after .evDma (setChannel 2 loaded { gdma .select loaded with mdmaen := 0x05 })).gdmaChannel = 2 ∧
    (event (after .evDma (setChannel 2 loaded { gdma .select loaded with mdmaen := 0x05 })) .dma).when = 64 := by decide

/-- V-GDMA-4: the address step wraps within the bank. -/
theorem test_gdma_step :
    (channel (after .evDma (gdma .transfer { loaded with a1t := 0xFFFF })) 0).a1t = 0x0000 ∧
    (channel (after .evDma (gdma .transfer { loaded with dmap := 0x11, a1t := 0x0000 })) 0).a1t = 0xFFFF ∧
    (channel (after .evDma (gdma .transfer { loaded with dmap := 0x09 })) 0).a1t = 0x1000 := by decide

/-- V-FLT-1, V-FLT-4, V-FLT-5. -/
theorem test_gdma_stops :
    (after .evDma (gdma .select { loaded with dmap := 0x04 })).fault.map FaultRecord.info = some (.pattern 0 4) ∧
    (match exec .evDma (gdma .select Channel.reset) with | .refused r => some r | _ => none) = some (.unwritten 0 0) ∧
    (match exec .evDma (gdma .transfer { loaded with a1b := 0x00, a1t := 0x2100 }) with | .refused r => some r | _ => none) =
      some (.dmaRegWindow 0 0x002100) := by decide

/-- V-HDMA-5, V-HDMA-6: an indirect entry, and a zero header that reads no pointer. -/
theorem test_hdma_indirect :
    (match hdmaReload 0 (withChannel { loaded with dmap := 0x40, a2a := 0x4000 }
        { quiet with mem := [(0x7E4000, 0x05), (0x7E4002, 0x30)] }) with
      | .ok cost t => some (cost, (channel t 0).ntrl, (channel t 0).das, (channel t 0).a2a)
      | _ => none) = some (24, 0x05, 0x3000, 0x4003) ∧
    (match hdmaReload 0 (withChannel { loaded with dmap := 0x40, a2a := 0x4000 } quiet) with
      | .ok cost t => some (cost, (channel t 0).ntrl, (channel t 0).hdmaTerminated, (channel t 0).a2a)
      | _ => none) = some (8, 0x00, true, 0x4001) := by decide

/-- R331: channels 0 and 5 write one B-bus register on one line; channel 5's byte is the last. R330: the stall. -/
theorem test_hdma_order :
    (match hdmaLine { setChannel 5 { loaded with dmap := 0x00, a2a := 0x3000, ntrl := 0x02, hdmaDoTransfer := true, hdmaTerminated := false }
        (withChannel { loaded with dmap := 0x00, a2a := 0x2000, ntrl := 0x02, hdmaDoTransfer := true, hdmaTerminated := false }
          { quiet with hdmaen := 0x21, mem := [(0x7E2000, 0x11), (0x7E3000, 0x22)] }) with committed := 1104 } with
      | .ok _ t => some (readByte t.mem 0x002118, t.stallUntil)
      | _ => none) = some (0x22, 1154) := by decide

/-- R321, its example: the per-frame reload of channel 1. -/
theorem test_hdma_init :
    (match hdmaInit (setChannel 1 { loaded with a1t := 0x2000 }
        { quiet with hdmaen := 0x02, mdmaen := 0x03, mem := [(0x7E2000, 0x83)] }) with
      | .ok _ t => some ((channel t 1).a2a, (channel t 1).ntrl, (channel t 1).hdmaDoTransfer, t.mdmaen, t.stallUntil)
      | _ => none) = some (0x2001, 0x83, true, 0x01, 26) := by decide

/-- V-HDMA-8: a unit of pattern 1. -/
theorem test_hdma_unit :
    (match hdmaUnit 0 (withChannel { loaded with bbad := 0x21, a2a := 0x2001 }
        { quiet with mem := [(0x7E2001, 0x11), (0x7E2002, 0x22)] }) with
      | .ok cost t => some (cost, readByte t.mem 0x002121, readByte t.mem 0x002122, (channel t 0).a2a)
      | _ => none) = some (16, 0x11, 0x22, 0x2003) := by decide

/-- V-VID-2, V-VID-3, V-VID-5. -/
theorem test_video_line :
    (after .evVideo { position 0 0 with hblank := true }).hblank = false ∧
    (after .evVideo (position 0 273)).hblank = true ∧
    (after .evVideo (position 0 273)).outputs = [.composeScanline 0] ∧ (after .evVideo (position 0 339)).scanline = 1 := by
  decide

/-- V-VID-6, V-VID-7, V-VID-9. -/
theorem test_video_frame :
    (after .evVideo (position 224 339)).vblank = true ∧ (after .evVideo (position 224 339)).frameCounter = 1 ∧
    (after .evVideo (position 225 9)).outputs = [.oamReload] ∧
    (after .evVideo { position 261 339 with vblank := true, nmiFlag := true }).vblank = false ∧
    (after .evVideo (position 261 339)).field = true := by decide

/-- V-VID-8. -/
theorem test_auto_joypad :
    (after .evVideo { position 225 32 with nmitimen := 0x01, joyInput := #v[0x1000, 0x8080] }).joy = #v[0x1000, 0x8080, 0, 0] ∧
    (event (after .evVideo { position 225 32 with nmitimen := 0x01 }) .joy).when = 4228 := by decide

/-- V-ARB-17, V-ARB-18: an appended stall, and a pushed-back EV_DMA. -/
theorem test_stall :
    (stallBegin 34 { quiet with committed := 560, stallActive := true, stallUntil := 576 }).stallUntil = 610 ∧
    (event (stallBegin 40 (withEvent .dma 536 { quiet with committed := 536 })) .dma).when = 576 := by decide

/-- V-INT-6, V-INT-7, V-INT-10. -/
theorem test_irq_compare :
    (event (after .evVideo { position 0 99 with nmitimen := 0x10, htime := 100 }) .irq).when = 18 ∧
    (event (after .evVideo { position 15 339 with nmitimen := 0x20, vtime := 16 }) .irq).queued = true ∧
    (event (after .evVideo { position 0 339 with nmitimen := 0x10, htime := 340 }) .irq).queued = false := by decide

/-- R421, R196, R358. -/
theorem test_flag_events :
    (after .evIrq { quiet with nmitimen := 0x10 }).irqFlag = true ∧
    (after .evStall { quiet with stallActive := true }).stallActive = false ∧
    (after .evJoy { quiet with autoJoyBusy := true }).autoJoyBusy = false := by decide

/-- V-HOST-3, V-HOST-5. -/
theorem test_host :
    (after .runFrame (after .pause quiet)).committed = 0 ∧ (after .isPaused (after .pause quiet)).reply = .bit true ∧
    (after .resume (after .pause quiet)).paused = false ∧ (after (.setKey 7 1 true) quiet).joyInput = #v[0x0000, 0x0080] := by
  decide

/-- V-HOST-8, V-RST-1, V-RST-3. -/
theorem test_reset :
    (after .reset broken).fault = none ∧ (after .reset (gdma .transfer loaded)).mdmaen = 0x00 ∧
    (event (after .reset (gdma .transfer loaded)) .dma).queued = false ∧
    (match exec .reset { quiet with cfg := { quiet.cfg with irqLatency := 1360 } } with | .refused r => some r | _ => none) =
      some .badConfig := by decide

/-- R392, V-HOST-1: the last run-loop step of a frame. -/
theorem test_runFrame :
    (after .runFrame (position 224 339)).frameCounter = 1 ∧ (after .runFrame (position 224 339)).vblank = true := by decide

/-- R393: an IDLE, then the boundary. -/
theorem test_runInstruction :
    (after .runInstruction { quiet with cpuScript :=
      [anIdle,
       { word := 0x000800000, irqDisable := true, instrAddr := 0 }] }).ahead = 6 := by decide

/-- R180, R193, R123: a word at the port is run, a bus operation that is not granted waits, one that finds an earlier
one held waits behind it while that one is performed, and an MMIO word outside the
window is the router's. -/
theorem test_step :
    (match step (waiting .busop 0x500000000 quiet) with | .next t => some t.ahead | _ => none) = some 6 ∧
    (match step (waiting .busop 0x500000000 { quiet with cpuState := .stopped }) with
      | .next t => some (t.dot, t.port.length) | _ => none) = some (1, 1) ∧
    (match step (waiting .busop 0x27E001000 { quiet with port := [anIdle] }) with
      | .next t => some (t.ahead, t.port.map CpuRequest.word) | _ => none) = some (6, [0x27E001000]) ∧
    (match step (waiting .mmio 0x1002118 (bus 0x33)) with | .next t => some (readByte t.mem 0x2118) | _ => none) =
      some 0x33 := by decide

/-! ## Witnesses: the premises of the statements can be met -/

theorem witness_DecodeEncode :
    (Instr.rTail 0xBF 0x7F).wellFormed = true ∧ (Instr.setKey 15 1 true).wellFormed = true ∧
    (Instr.setKey 4 0 false).wellFormed = true := by decide

theorem witness_DecodedWordMatchesItsRow : decode ⟨.mmio, 0x0BF43FF⟩ = .ok (.rTail 0xBF 0x7F) := by rfl

/-- Each clause, at the ends of its range. -/
theorem witness_IllegalWordsAreRefused :
    (waiting .busop 0x900000000 quiet).inbox = [⟨.busop, 0x900000000⟩] ∧ 9 ≤ bitField 0x900000000 32 4 ∧
    9 ≤ bitField 0xF00000000 32 4 ∧ 5 ≤ bitField 0x5 0 4 ∧
    bitField 0x0800000000000000 56 8 ∉ [0x01, 0x02, 0x03, 0x04, 0x05, 0x06, 0x07, 0x10, 0x11, 0x12, 0x13, 0x14, 0x15, 0x16] ∧
    bitField 0x0601000000000000 48 4 ≠ 0 ∧
    (bitField 0x1300000000000300 56 8 = 0x13 ∧ bitField 0x1300000000000300 8 4 < 4) ∧
    (0x1FFFFFF#64).toNat < 2 ^ 25 ∧ windowReg (BitVec.ofNat 24 (bitField 0x1002136 0 24)) = none := by decide

theorem witness_StepRunsTheDecodedInstruction :
    decode ⟨.busop, 0x500000000⟩ = .ok .idle ∧ isBusop .idle = true ∧ granted (waiting .busop 0x500000000 quiet) = true ∧
    granted (waiting .busop 0x500000000 { quiet with cpuState := .stopped }) = false ∧ quiet.port = [] ∧
    ({ quiet with port := [anIdle] } : State).port ≠ [] ∧
    (waiting .busop 0x500000000 quiet).fault = none ∧ broken.fault ≠ none ∧ isBusop .reset = false := by
  refine ⟨rfl, ?_⟩
  decide

/-- Both sides of the window, and one register at two banks. -/
theorem witness_BlockWindow :
    (0x004213 : Addr).getLsbD 22 = false ∧ (0x802137 : Addr).getLsbD 22 = false ∧
    (windowReg 0x004206).isSome = false ∧ (windowReg 0x004207).isSome = true ∧ (windowReg 0x00420D).isSome = true ∧
    (windowReg 0x00420E).isSome = false ∧ (windowReg 0x004213).isSome = false ∧ (windowReg 0x004217).isSome = false ∧
    (windowReg 0x0043FF).isSome = true ∧ (windowReg 0x004400).isSome = false ∧ (windowReg 0x404300).isSome = false := by
  decide

theorem witness_ResetValues : broken.cfg.Valid ∧ broken.fault ≠ none := by decide

/-- The default parameters, changed. -/
def conf (f : Config.Params → Config.Params) : Config.Params := f Config.defaultParams

/-- Each constraint at its edge. -/
theorem witness_BadConfigIsRefused :
    (∀ p ∈ [quiet.cfg, conf fun p => { p with hblankClearDot := 339 }, conf fun p => { p with vblankLine := 261 },
        conf fun p => { p with irqLatency := 1359 }], p.Valid ∧ p.Widths) ∧
    ¬ (conf fun p => { p with nCh := 7 }).Widths ∧
    (∀ p ∈ [conf fun p => { p with hblankClearDot := 340 }, conf fun p => { p with hdmaInitDot := 276 },
        conf fun p => { p with vblankLine := 262 }, conf fun p => { p with irqLatency := 1360 },
        conf fun p => { p with dmaAlign := 0 }, conf fun p => { p with prioDma := 1 }], ¬ p.Valid) := by decide

theorem witness_SchedulerCommands : Live quiet := by decide

theorem nothing_due (s : State) (t : Nat) (hv : t < (event s .video).when)
    (hq : ∀ e, e ≠ .video → (event s e).queued = false) : NoneDueBy t s := by
  intro e he
  by_cases h : e = .video
  · exact h ▸ hv
  · exact absurd he (by simp [hq e h])

/-- Below `ahead`, and at `ahead` with nothing reached. -/
theorem witness_AdvanceCommits :
    Live { quiet with ahead := 3 } ∧ (2#48).toNat < ({ quiet with ahead := 3 } : State).ahead ∧
    ({ quiet with ahead := 3 } : State).ahead ≤ (3#48).toNat ∧
    NoneDueBy (({ quiet with ahead := 3 } : State).committed + (3#48).toNat) { quiet with ahead := 3 } := by
  refine ⟨by decide, by decide, by decide, nothing_due _ _ (by decide) ?_⟩
  intro e; cases e <;> decide

/-- EV_IRQ due exactly at the end, EV_VIDEO one cycle later. -/
theorem witness_AdvanceFiresTheDueEvent :
    let s := withEvent .irq 3 { quiet with nmitimen := 0x10 }
    Live s ∧ s.ahead ≤ (3#48).toNat ∧ irqMode s ≠ 0 ∧ (event s .irq).queued = true ∧
    (event s .irq).when ≤ s.committed + (3#48).toNat ∧
    ∀ e, e ≠ .irq → (event s e).queued = true → s.committed + (3#48).toNat < (event s e).when := by
  refine ⟨by decide, by decide, by decide, by decide, by decide, ?_⟩
  intro e; cases e <;> decide

theorem witness_AdvanceReturnsTheDelay :
    ∃ t, Live quiet ∧ exec (.advance 12) quiet = .next t ∧ Live t ∧ (event t .video).queued = true :=
  ⟨_, by decide, rfl, rfl, rfl⟩

/-- The ends of every clause of R181. -/
theorem witness_WaitStates :
    (0x40 ≤ (0x400000 : Addr).toNat / 2 ^ 16 ∧ (0x7FFFFF : Addr).toNat / 2 ^ 16 ≤ 0x7F) ∧
    0xC0 ≤ (0xC00000 : Addr).toNat / 2 ^ 16 ∧ (0x3F1FFF : Addr).toNat / 2 ^ 16 < 0x40 ∧
    (0x801FFF : Addr).toNat % 2 ^ 16 ≤ 0x1FFF ∧ 0x2000 ≤ (0xBF2000 : Addr).toNat % 2 ^ 16 ∧
    (0x0041FF : Addr).toNat % 2 ^ 16 ≤ 0x41FF ∧ 0x4200 ≤ (0x004200 : Addr).toNat % 2 ^ 16 ∧
    (0x007FFF : Addr).toNat % 2 ^ 16 ≤ 0x7FFF ∧ 0x8000 ≤ (0x808000 : Addr).toNat % 2 ^ 16 := by decide

/-- A window register, and each answer of the router. -/
theorem witness_CpuReads :
    Live quiet ∧ windowReg 0x804210 = some (.port .rdnmi) ∧ windowReg 0x208000 = none ∧ windowReg 0x7E0000 = none ∧
    regionKind quiet 0x7E0000 = some .ram ∧ regionKind (routed .rom) 0x208000 = some .rom ∧
    regionKind (routed .device) 0x208000 = some .device ∧ regionKind (routed .writeOnly) 0x208000 = some .writeOnly ∧
    regionKind (routed .chip) 0x208000 = some .chip ∧ regionKind (routed .ram) 0x308000 = none := by decide

theorem witness_CpuStores :
    Live (routed .ram) ∧ MemoryWf (gdma .select loaded).mem ∧ windowReg 0x2FFFFF = none ∧
    regionKind (routed .ram) 0x2FFFFF = some .ram ∧ windowReg 0x00420B = some (.port .mdmaen) ∧
    regionKind (routed .rom) 0x2FFFFF = some .rom ∧ regionKind (routed .device) 0x2FFFFF = some .device ∧
    regionKind (routed .writeOnly) 0x2FFFFF = some .writeOnly ∧ regionKind (routed .chip) 0x2FFFFF = some .chip ∧
    regionKind (routed .ram) 0x300000 = none := by decide

theorem witness_IdleHaltStopAck : Live { quiet with nmiRequest := true } := by decide

/-- A request held at the port, and one of the stream. -/
theorem witness_StepPerformsTheRequest :
    ∃ t, brokenInvariant { quiet with port := [anIdle] } = none ∧ granted { quiet with port := [anIdle] } = true ∧
      decode ⟨.busop, anIdle.word.setWidth 64⟩ = .ok .idle ∧
      exec .idle { quiet with port := [anIdle] } = .next t ∧ Live t ∧
      granted { quiet with cpuScript := [anIdle] } = true ∧ ({ quiet with cpuScript := [anIdle] } : State).port = [] :=
  ⟨_, by decide, by decide, rfl, rfl, rfl, by decide, rfl⟩

/-- The three requests of the reset sequence. -/
theorem witness_StepPerformsTheRequest_boot :
    (∃ t, brokenInvariant quiet = none ∧ granted quiet = true ∧ quiet.port = [] ∧ quiet.cpuScript = [] ∧
      quiet.cpuEngine = .vectorLow ∧ exec (.memoryLoad 0x00FFFC) quiet = .next t ∧ Live t) ∧
    (∃ t, exec (.memoryLoad 0x00FFFD) { quiet with cpuEngine := .vectorHigh 0x34 } = .next t ∧ Live t) ∧
    (∃ t, interruptTaken { quiet with cpuEngine := .boundary 0 false true 0x001234 } = none ∧
      exec (.fetch 0x001234) { quiet with cpuEngine := .boundary 0 false true 0x001234 } = .next t ∧ Live t) :=
  ⟨⟨_, by decide, by decide, rfl, rfl, rfl, rfl, rfl⟩, ⟨_, rfl, rfl⟩, ⟨_, by decide, rfl, rfl⟩⟩

/-- A waiting CPU with and without its wake condition, a stopped one, and one blocked by a stall or a GDMA. -/
theorem witness_StepWithoutAGrant :
    (∀ s ∈ [{ quiet with cpuState := .waiting, nmiRequest := true }, { quiet with cpuState := .waiting, irqFlag := true },
        { quiet with cpuState := .stopped }, withEvent .stall 9 { quiet with stallActive := true, stallUntil := 9 },
        withEvent .dma 8 { quiet with gdmaActive := true, gdmaPhase := .select }],
      Live s ∧ brokenInvariant s = none ∧ anyEventDue s = false ∧ granted s = false) ∧
    wakeCondition { quiet with cpuState := .waiting, nmiRequest := true } = true ∧
    wakeCondition { quiet with cpuState := .waiting, irqFlag := true } = false ∧
    (∃ t, exec .stepOnce { quiet with cpuState := .stopped } = .next t ∧ Live t) ∧
    (∃ t, exec .stepOnce (withEvent .stall 9 { quiet with stallActive := true, stallUntil := 9 }) = .next t ∧ Live t) :=
  ⟨by decide, by decide, by decide, ⟨_, rfl, rfl⟩, ⟨_, rfl, rfl⟩⟩

/-- A stopped CPU with an empty queue, and a broken clause. -/
theorem witness_StepWithoutAGrant_fault :
    let s := { quiet with cpuState := .stopped, events := { quiet.events with video := Event.none } }
    Live s ∧ brokenInvariant s = none ∧ (∀ e ∈ allEvents, (event s e).queued = false) ∧
    brokenInvariant { quiet with dot := 340 } = some (.position 340 340 0 262) := by decide

/-- `AnyEventDue` is false exactly when nothing is due by now (R167). -/
theorem witness_NoneDueBy : NoneDueBy (quiet.committed + quiet.ahead) quiet := by
  refine nothing_due _ _ (by decide) ?_
  intro e; cases e <;> decide

theorem witness_StoppedUntilReset :
    ∃ t, step (waiting .busop 0x500000000 { quiet with cpuState := .stopped }) = .next t ∧
      (decode ⟨.busop, 0x500000000⟩ = .ok .idle) ∧ (Instr.idle ≠ .reset) :=
  ⟨_, rfl, rfl, by decide⟩

theorem witness_RowsAreRegisterAccesses : Live (bus 0x55) := by decide

/-- `wrio[7]` set and clear, both flip-flops at both values. -/
theorem witness_CounterLatchReads :
    Live quiet ∧ quiet.wrio.getLsbD 7 = true ∧ ({ quiet with wrio := 0x7F } : State).wrio.getLsbD 7 = false ∧
    quiet.ophctFF = false ∧ ({ quiet with ophctFF := true } : State).ophctFF = true ∧ quiet.opvctFF = false ∧
    ({ quiet with opvctFF := true } : State).opvctFF = true := by decide

theorem witness_AccessesWithoutEffect : Live (bus 0xFF) := by decide

/-- Mode %00 and another one. -/
theorem witness_NmitimenWrite :
    Live (bus 0x80) ∧ (bus 0x80).openBus.extractLsb' 4 2 = 0 ∧ (bus 0x30).openBus.extractLsb' 4 2 ≠ 0 := by decide

/-- A fall of bit 7, and none. -/
theorem witness_ControlPortWrites :
    Live (bus 0x7F) ∧ ((bus 0x7F).wrio.getLsbD 7 = true ∧ (bus 0x7F).openBus.getLsbD 7 = false) ∧
    ¬ ((bus 0x80).wrio.getLsbD 7 = true ∧ (bus 0x80).openBus.getLsbD 7 = false) := by decide

/-- Zero, a nonzero value while IDLE, and one while a sequence runs. -/
theorem witness_MdmaenWrite :
    Live (bus 0x01) ∧ 1 ≤ (bus 0x01).cfg.dmaAlign ∧ (bus 0x00).openBus = 0 ∧
    ((bus 0x01).openBus ≠ 0 ∧ (bus 0x01).gdmaPhase = .idle) ∧ (gdma .transfer loaded).gdmaPhase ≠ .idle := by decide

theorem witness_StatusReads : Live { quiet with nmiFlag := true, irqFlag := true } := by decide

theorem witness_JoyReads :
    Live quiet ∧ quiet.autoJoyBusy = false ∧ ({ quiet with autoJoyBusy := true } : State).autoJoyBusy = true := by decide

/-- Every register written, and every one not. -/
theorem witness_ChannelReads :
    (∀ r < 12, (channel (withChannel loaded quiet) 0).written.getLsbD r = true) ∧
    (∀ r < 12, (channel quiet 7).written.getLsbD r = false) ∧ writtenIndex .unusedMirror = some 11 ∧
    writtenIndex .dmap = some 0 := by decide

theorem witness_ChannelWrites : Live (bus 0xA5) := by decide

/-- UNUSED, written at one of its offsets and read at the other in another bank (V-REG-12). -/
theorem witness_ReadAfterWrite :
    ∃ t, Live quiet ∧ (writtenIndex .unusedMirror).isSome = true ∧ writtenIndex .unused = writtenIndex .unusedMirror ∧
      windowReg 0x00437F = some (.chan 7 .unusedMirror) ∧ windowReg 0xBF437B = some (.chan 7 .unused) ∧
      exec (.memoryStore 0x00437F 0x5A) quiet = .next t :=
  ⟨_, by decide, by decide, by decide, by decide, by decide, rfl⟩

/-- A boundary with an NMI request, with an IRQ only, and with neither. -/
theorem witness_InterruptLines :
    let r : CpuRequest := { word := 0, irqDisable := false, instrAddr := 0 }
    interruptTaken { quiet with cpuScript := [r], nmiRequest := true, irqFlag := true } = some .nmi ∧
    interruptTaken { quiet with cpuScript := [r], irqFlag := true } = some .irq ∧
    interruptTaken { quiet with cpuScript := [r] } = none ∧
    (let s := { quiet with cpuEngine := .boundary 0 false false 0x001234, nmiRequest := true };
      interruptTaken s = some .nmi ∧ brokenInvariant s = none ∧ s.port = [] ∧ s.cpuScript = []) := by decide

/-- The service of an IRQ begins; its last push; the two loads of its vector. -/
theorem witness_InterruptLines_service :
    let v : Service := { kind := .irq, nativeMode := true, code := 0, mask := false, pc := 0x7E1234 }
    let at' (e : Engine) : State := { quiet with cpuEngine := e, irqFlag := true }
    interruptTaken (at' (.boundary v.code v.nativeMode v.mask v.pc)) = some v.kind ∧
    brokenInvariant (at' (.boundary v.code v.nativeMode v.mask v.pc)) = none ∧
    (∀ e ∈ [Engine.push v 0x7E [], .serviceLow v, .serviceHigh v 0x00],
      brokenInvariant (at' e) = none ∧ granted (at' e) = true) ∧
    (∃ t, exec (.memoryLoad 0x00FFEE) (at' (.serviceLow v)) = .next t ∧ Live t) ∧
    (∃ t, exec (.memoryLoad 0x00FFEF) (at' (.serviceHigh v 0x00)) = .next t ∧ Live t) :=
  ⟨by decide, by decide, by decide, ⟨_, rfl, rfl⟩, ⟨_, rfl, rfl⟩⟩

/-- A push completes, wherever the engine's stack lies (R424; log 32): here with no router region at all. -/
theorem witness_InterruptLines_push (v : Service) (value : Byte) (rest : List Byte) :
    ∃ t, exec (.memoryStore (Config.cpuPushAddr v.code rest.length) value)
      { quiet with cpuEngine := .push v value rest, regions := [] } = .next t ∧ Live t := by
  generalize Config.cpuPushAddr v.code rest.length = a
  simp only [exec, execMemoryStore, memoryStoreOp, cpuWrite, memWrite]
  cases h : windowReg a with
  | none => exact ⟨_, rfl, rfl⟩
  | some r => exact ⟨_, rfl, (blockWrite_keeps _ _ _ _).2⟩

theorem witness_NmiRequestStays :
    ∃ t, exec (.rRdnmi 0) { quiet with nmiFlag := true, nmiPrev := true, nmiRequest := true } = .next t ∧
      ({ quiet with nmiFlag := true, nmiPrev := true, nmiRequest := true } : State).nmiRequest = true := ⟨_, rfl, rfl⟩

/-- Mode %00 and another one. -/
theorem witness_FlagEvents :
    Live quiet ∧ quiet.ahead = 0 ∧ quiet.nmitimen.extractLsb' 4 2 = 0 ∧
    ({ quiet with nmitimen := 0x30 } : State).nmitimen.extractLsb' 4 2 ≠ 0 := by decide

/-- Each mode with its match, a mode without one, and mode %00. -/
theorem witness_IrqComparator :
    ∀ s ∈ [{ position 0 99 with nmitimen := 0x10, htime := 100 }, { position 15 339 with nmitimen := 0x20, vtime := 16 },
        { position 16 99 with nmitimen := 0x30, vtime := 16, htime := 100 },
        { position 15 99 with nmitimen := 0x30, vtime := 16, htime := 100 }, position 0 0],
      CanFire .video s ∧ (after .evVideo s).fault = none ∧ (after .evVideo s).dot = (s.dot + 1) % 340 := by decide

theorem witness_evVideo_next : ∃ t, exec .evVideo (position 0 0) = .next t ∧ Live t := ⟨_, rfl, rfl⟩

/-- Within a line, at a line's end, at the frame's end. -/
theorem witness_VideoPosition :
    ∀ s ∈ [position 0 338, position 0 339, position 261 339],
      CanFire .video s ∧ (after .evVideo s).fault = none ∧ (s.scanline < s.cfg.lines ∧ s.dot < s.cfg.dots) := by decide

/-- Every clause: vertical blank entry and exit, the two horizontal blank dots, and a dot with no action. -/
theorem witness_VideoFlags :
    ∀ s ∈ [position 224 339, position 261 339, position 3 273, position 3 0, position 3 1],
      s.cfg.Valid ∧ CanFire .video s ∧ (after .evVideo s).fault = none ∧
      (((after .evVideo s).dot = 0 ∧ (after .evVideo s).scanline = 225) ∨
        ((after .evVideo s).dot = 0 ∧ (after .evVideo s).scanline = 0) ∨ (after .evVideo s).dot = 274 ∨
        (after .evVideo s).dot = 1 ∨ (after .evVideo s).dot = 2) := by decide

/-- The dot with and without the enable. -/
theorem witness_AutoJoypadStart :
    ∀ s ∈ [{ position 225 32 with nmitimen := 0x01 }, position 225 32],
      CanFire .video s ∧ (after .evVideo s).fault = none ∧ (after .evVideo s).scanline = s.cfg.vblankLine ∧
      (after .evVideo s).dot = s.cfg.joyDot := by decide

/-- Every clause at its dot. -/
theorem witness_TicksComplete :
    (∀ s ∈ [position 5 1, position 5 0, position 225 9, position 5 133, position 224 273, position 225 273],
      CanFire .video s ∧ irqMode s = 0 ∧ s.dot + 1 ≠ s.cfg.dots ∧ s.dot + 1 ≠ 0) ∧
    OnlyDot quiet.cfg 2 7 ∧ OnlyDot quiet.cfg 1 0 ∧ OnlyDot quiet.cfg 10 2 ∧ OnlyDot quiet.cfg 134 4 ∧
    OnlyDot quiet.cfg 274 5 := by decide

/-- A stall on an idle bus and an appended one, with and without a pending EV_DMA. -/
theorem witness_StallBegins :
    (1 : Nat) ≠ 0 ∧ ({ quiet with stallActive := true, stallUntil := 576 } : State).stallActive = true ∧
    (event (gdma .select loaded) .dma).queued = true ∧ (event quiet .dma).queued = false := by decide

/-- Every clause: nothing enabled, a channel of a live HDMA, one not written, a pattern that faults, one that runs. -/
theorem witness_GdmaSelection :
    (∀ s ∈ [{ gdma .select loaded with mdmaen := 0x00 }, hdma loaded (gdma .select loaded), gdma .select Channel.reset,
        gdma .select { loaded with dmap := 0x04 }, gdma .select { loaded with dmap := 0x07 }],
      CanFire .dma s ∧ s.gdmaPhase = .select) ∧
    (gdma .select loaded).mdmaen.getLsbD 0 = true ∧
    (∀ d : Chan, 0 < d → (gdma .select loaded).mdmaen.getLsbD d.val = false) ∧
    ((hdma loaded (gdma .select loaded)).hdmaen.getLsbD 0 = true ∧
      (channel (hdma loaded (gdma .select loaded)) 0).hdmaTerminated = false) ∧
    (∀ q < 6, (channel (gdma .select { loaded with written := 0x03F }) 0).written.getLsbD q = true) ∧
    (channel (gdma .select { loaded with written := 0x03F }) 0).written.getLsbD 6 = false ∧
    (∀ r ≤ 6, (channel (gdma .select loaded) 0).written.getLsbD r = true) := by decide

/-- The last byte of a channel, one that is not the last, and both directions. -/
theorem witness_GdmaMovesAByte :
    ∀ s ∈ [gdma .transfer loaded, gdma .transfer { loaded with das := 1 }, gdma .transfer { loaded with dmap := 0x97 },
        gdma .transfer { loaded with das := 0 }],
      CanFire .dma s ∧ s.gdmaPhase = .transfer ∧ s.gdmaChannel = 0 ∧ s.mdmaen.getLsbD 0 = true ∧ MemoryWf s.mem ∧
      dmaRegWindow 0x7E1000 = false ∧ windowReg 0x002118 = none ∧ regionKind s 0x7E1000 = some .ram ∧
      regionKind s 0x002118 = some .ram ∧ (channel s 0).dmap.extractLsb' 0 3 ≠ 4 ∧ (channel s 0).dmap.extractLsb' 0 3 ≠ 5 := by
  decide

/-- Every clause, and the edges of the two windows. -/
theorem witness_GdmaStops :
    (∀ s ∈ [gdma .transfer { loaded with a1b := 0x00, a1t := 0x43FF }, { gdma .transfer loaded with mdmaen := 0x00 },
        gdma .idle loaded], CanFire .dma s) ∧
    dmaRegWindow 0x0043FF = true ∧ dmaRegWindow 0x004400 = false ∧ dmaRegWindow 0x003FFF = false ∧
    dmaRegWindow 0x802100 = true ∧ dmaRegWindow 0x0020FF = false ∧ dmaRegWindow 0x002200 = false ∧
    dmaRegWindow 0x402100 = false := by decide

theorem witness_TransfersKeepTheBank : ∃ t, exec .evDma (gdma .transfer loaded) = .next t := ⟨_, rfl⟩

/-- A header of 128 lines at its first and last line, a repeat header within and at its last line, one line. -/
theorem witness_HdmaLineCounting :
    ∀ x ∈ [((0x80 : Byte), 128, 1), (0x80, 128, 128), (0x83, 3, 2), (0x83, 3, 3), (0x01, 1, 1), (0xFF, 127, 127)],
      x.1 ≠ 0 ∧ x.2.1 = (if x.1.extractLsb' 0 7 = 0 then 128 else (x.1.extractLsb' 0 7).toNat) ∧ 1 ≤ x.2.2 ∧
      x.2.2 ≤ x.2.1 ∧
      (channel (withChannel { loaded with ntrl := x.1 - BitVec.ofNat 8 (x.2.2 - 1) } quiet) 0).ntrl =
        x.1 - BitVec.ofNat 8 (x.2.2 - 1) := by decide

/-- A zero header, a direct and an indirect entry, at the wrap of the cursor; and each register not written. -/
theorem witness_HdmaReloads :
    (let s := withChannel { loaded with dmap := 0x40, a2a := 0xFFFF } { quiet with mem := [(0x7EFFFF, 0x05)] };
      (∀ r ∈ [0, 4, 8, 9], (channel s 0).written.getLsbD r = true) ∧ dmaRegWindow 0x7EFFFF = false ∧
      regionKind s 0x7EFFFF = some .ram ∧ readByte s.mem 0x7EFFFF ≠ 0 ∧ readByte s.mem 0x7E1000 = 0 ∧
      dmaRegWindow 0x7E0000 = false ∧ regionKind s 0x7E0001 = some .ram ∧ (channel s 0).dmap.getLsbD 6 = true) ∧
    loaded.dmap.getLsbD 6 = false ∧
    (∀ r ∈ [0, 4, 8, 9], (({ loaded with written := 0xFFF &&& ~~~(1#12 <<< r) } : Channel).written.getLsbD r = false ∧
      ∀ q ∈ [0, 4, 8, 9], q < r →
        ({ loaded with written := 0xFFF &&& ~~~(1#12 <<< r) } : Channel).written.getLsbD q = true)) := by decide

/-- The per-frame reload: one channel with a direct and with a zero header, its outcome, the refusals, and its tick. -/
theorem witness_HdmaReloads_perFrame :
    (∀ m ∈ [[], [((0x7E1000 : Nat), (0x83 : Byte))]], ∀ s ∈ [withChannel loaded { quiet with hdmaen := 0x01, mem := m }],
      s.hdmaen = 1#8 <<< (0 : Chan).val ∧ (∀ r ∈ [0, 2, 3, 4], (channel s 0).written.getLsbD r = true) ∧
      dmaRegWindow 0x7E1000 = false ∧ regionKind s 0x7E1000 = some .ram ∧ (channel s 0).dmap.getLsbD 6 = false) ∧
    (∃ t, hdmaInit (withChannel loaded { quiet with hdmaen := 0x01 }) = .ok () t) ∧ (∃ t, hdmaInit quiet = .ok () t) ∧
    (({ loaded with written := 0xFF7 } : Channel).written.getLsbD 3 = false ∧
      ({ loaded with written := 0xFF7 } : Channel).written.getLsbD 2 = true) ∧
    (let s := position 0 5; CanFire .video s ∧ irqMode s = 0 ∧ s.dot + 1 ≠ s.cfg.dots ∧ OnlyDot s.cfg (s.dot + 1) 1 ∧
      s.scanline = 0) ∧
    (∃ v, hdmaInit { position 0 5 with
      events := { (position 0 5).events with video := { (position 0 5).events.video with queued := false } },
      dot := (position 0 5).dot + 1, current := some .video } = .ok () v) :=
  ⟨by decide, ⟨_, rfl⟩, ⟨_, rfl⟩, by decide, by decide, ⟨_, rfl⟩⟩

/-- A direct unit of one byte; the two patterns that fault; each register byte not written. -/
theorem witness_HdmaUnitMoves :
    (let s := withChannel { loaded with dmap := 0x00, a2a := 0x2001 } quiet;
      MemoryWf s.mem ∧ (channel s 0).written.getLsbD 1 = true ∧ (channel s 0).dmap.extractLsb' 0 3 = 0 ∧
      dmaRegWindow 0x7E2001 = false ∧ windowReg 0x002118 = none ∧ regionKind s 0x7E2001 = some .ram ∧
      regionKind s 0x002118 = some .ram) ∧
    ({ loaded with dmap := 0xC5 } : Channel).dmap.extractLsb' 0 3 = 5 ∧
    ({ loaded with dmap := 0x04 } : Channel).dmap.extractLsb' 0 3 = 4 ∧
    ({ loaded with written := 0xFFD } : Channel).written.getLsbD 1 = false ∧
    ({ loaded with written := 0xFDF } : Channel).written.getLsbD 5 = false ∧
    ({ loaded with written := 0xFBF } : Channel).written.getLsbD 6 = false ∧
    ({ loaded with written := 0xF7F } : Channel).written.getLsbD 7 = false := by decide

/-- An indirect unit of four bytes into the A-bus at the wrap of the pointer, to two B-bus registers. -/
theorem witness_HdmaUnitMoves_indirect :
    (∀ r ∈ [5, 6, 7], (channel (withChannel { loaded with dmap := 0xC3 } quiet) 0).written.getLsbD r = true) ∧
    (∀ a ∈ [0x7FFFFE, 0x7FFFFF, 0x7F0000, 0x7F0001], dmaRegWindow a = false ∧
      regionKind (withChannel { loaded with dmap := 0xC3 } quiet) a = some .ram) ∧
    (∀ b ∈ [0x002118, 0x002119], windowReg b = none ∧
      regionKind (withChannel { loaded with dmap := 0xC3 } quiet) b = some .ram) := by
  refine ⟨by decide, ?_, ?_⟩ <;> intro a ha <;> fin_cases ha <;> decide

/-- The line dot with no live channel and with one; the reload with none enabled. -/
theorem witness_HdmaBursts :
    (∀ s ∈ [position 224 275, hdma { loaded with ntrl := 0x02 } (position 0 275)],
      CanFire .video s ∧ irqMode s = 0 ∧ s.dot + 1 ≠ s.cfg.dots ∧ OnlyDot s.cfg (s.dot + 1) 6 ∧
      s.scanline < s.cfg.vblankLine ∧ 0 < s.cfg.hdmaOverhead ∧ (after .evVideo s).fault = none) ∧
    ((hdma loaded quiet).hdmaen.getLsbD 0 = true ∧ (channel (hdma loaded quiet) 0).hdmaTerminated = false) ∧
    (∀ c : Chan, ¬ ((position 224 275).hdmaen.getLsbD c.val = true ∧ (channel (position 224 275) c).hdmaTerminated = false)) ∧
    quiet.hdmaen = 0 := by decide

/-- A burst that ends, with and without a live channel, and its tick. -/
theorem witness_HdmaBursts_order :
    (∃ t, hdmaLine (hdma { loaded with ntrl := 0x02 } quiet) = .ok () t) ∧ (∃ t, hdmaLine quiet = .ok () t) ∧
    (∃ v, hdmaLine { position 224 275 with
      events := { (position 224 275).events with video := { (position 224 275).events.video with queued := false } },
      dot := (position 224 275).dot + 1, current := some .video } = .ok () v) :=
  ⟨⟨_, rfl⟩, ⟨_, rfl⟩, ⟨_, rfl⟩⟩

theorem witness_HostSwitches :
    Live quiet ∧ ({ quiet with paused := true } : State).paused = true ∧ 4 ≤ (4#4).toNat ∧ (3#4).toNat < 4 := by decide

theorem witness_FaultStateIsFrozen :
    broken.fault ≠ none ∧ (Instr.setKey 4 1 true).wellFormed = true ∧ Instr.setKey 4 1 true ≠ .reset ∧
    Instr.setKey 4 1 true ≠ .isPaused ∧ Instr.setKey 4 1 true ≠ .anyEventDue := by decide

/-- One run-loop step to the vertical blank entry. -/
theorem witness_RunFrameRepeatsStep :
    ∃ t, Live (position 224 339) ∧ (position 224 339).paused = false ∧ 1 ≤ 2 ^ 64 ∧
      Steps (fun u => u.frameDone = false ∧ Live u) 1 { position 224 339 with frameDone := false } t ∧
      t.frameDone = true ∧ exec .runFrame (position 224 339) = .next t ∧ Live t :=
  ⟨_, by decide, by decide, by decide, .more (by decide) rfl (.done _), rfl, rfl, rfl⟩

theorem witness_RunFrameCompletes :
    let s := position 224 339
    Live s ∧ brokenInvariant s = none ∧ s.cfg.Valid ∧ s.paused = false ∧
    (∀ e, (event s e).queued = true ↔ e = .video) ∧ (event s .video).when ≤ s.committed + s.ahead ∧
    s.committed + s.ahead < (event s .video).when + s.cfg.dotCycles ∧ s.dot + 1 = s.cfg.dots ∧
    s.scanline + 1 = s.cfg.vblankLine ∧ irqMode s = 0 ∧ OnlyDot s.cfg 0 7 := by
  refine ⟨by decide, by decide, by decide, by decide, ?_, by decide⟩
  intro e; cases e <;> decide

theorem witness_RunInstructionCompletes :
    let n : CpuRequest := { word := 0x000800000, irqDisable := true, instrAddr := 0 }
    let s : State := { quiet with cpuScript := [anIdle, n] }
    Live s ∧ s.paused = false ∧ brokenInvariant s = none ∧ granted s = true ∧ s.port = [] ∧ n.word.extractLsb' 32 4 = 0 ∧
    ({ quiet with cpuState := .stopped } : State).cpuState ≠ .running := by decide

theorem witness_EveryStepKeepsSound :
    ∃ t, Sound (gdma .transfer loaded) ∧ step (waiting .event 2 (gdma .transfer loaded)) = .next t ∧
      Sound (waiting .event 2 (gdma .transfer loaded)) :=
  ⟨_, ⟨by decide, by decide, by decide, by decide, by decide⟩, rfl, ⟨by decide, by decide, by decide, by decide, by decide⟩⟩

/-- A state in which the run loop fires a tick. -/
theorem witness_RunLoopKeepsRegular :
    ∃ t, Regular (position 0 0) ∧ Live (position 0 0) ∧ exec .stepOnce (position 0 0) = .next t := by
  refine ⟨_, ⟨by decide, by decide, by decide, by decide, by decide, fun _ e => ?_, by decide⟩, by decide, rfl⟩
  cases e <;> decide

theorem witness_PositionLaw :
    (∃ t, OnTime (position 0 0) ∧ (position 0 0).cfg.Valid ∧ exec .stepOnce (position 0 0) = .next t ∧ Live t) ∧
    OnTime quiet ∧ quiet.committed < (event quiet .video).when :=
  ⟨⟨_, ⟨0, by decide⟩, by decide, rfl, rfl⟩, ⟨0, by decide⟩, by decide⟩

theorem witness_OnlyTicksMoveThePosition : ∃ t, exec (.wWrio 0) (bus 0x00) = .next t := ⟨_, rfl⟩

theorem witness_TimeAndParameters :
    ∃ t, step (waiting .cmd 0x0600000000000000 quiet) = .next t ∧ decode ⟨.cmd, 0x0600000000000000⟩ = .ok .stepOnce :=
  ⟨_, rfl, rfl⟩

theorem witness_MemoryFrame : ∃ t, exec (.memoryLoad 0x7E1000) (gdma .select loaded) = .next t := ⟨_, rfl⟩

end Sys2Proof.Tests
end

section
/-! SUPPORT. The instructions by kind: a bus operation, a read or a write of a place of the block window, a command,
an event; the meaning of each kind through the function its rows share; and what a step does with the word it takes. -/

namespace Sys2Proof.Machine

/-- The EVENT row of an event (R127). -/
def eventRow : EventId → Instr
  | .irq => .evIrq
  | .video => .evVideo
  | .dma => .evDma
  | .stall => .evStall
  | .joy => .evJoy

/-- The kinds of instruction (R120 to R127), an MMIO row by its place of the window. -/
inductive InstrKind : Instr → Prop where
  | busop {i : Instr} (h : isBusop i = true) : InstrKind i
  | read (bank : Byte) (r : Reg) : InstrKind (readRow bank r)
  | write (bank : Byte) (r : Reg) : InstrKind (writeRow bank r)
  | command {i : Instr} (h : (rowOf i).format = .cmd) : InstrKind i
  | event (e : EventId) : InstrKind (eventRow e)

theorem instrKind : ∀ i : Instr, InstrKind i
  | .fetch _ | .readOperand _ | .memoryLoad _ | .memoryStore _ _ | .dummyRead _ => .busop rfl
  | .idle | .halt | .stop | .nmiAck => .busop rfl
  | .rSlhv b => .read b (.port .slhv)
  | .wSlhv b => .write b (.port .slhv)
  | .rOphct b => .read b (.port .ophct)
  | .wOphct b => .write b (.port .ophct)
  | .rOpvct b => .read b (.port .opvct)
  | .wOpvct b => .write b (.port .opvct)
  | .rStat78 b => .read b (.port .stat78)
  | .wStat78 b => .write b (.port .stat78)
  | .rNmitimen b => .read b (.port .nmitimen)
  | .wNmitimen b => .write b (.port .nmitimen)
  | .rWrio b => .read b (.port .wrio)
  | .wWrio b => .write b (.port .wrio)
  | .rHtimel b => .read b (.port .htimel)
  | .wHtimel b => .write b (.port .htimel)
  | .rHtimeh b => .read b (.port .htimeh)
  | .wHtimeh b => .write b (.port .htimeh)
  | .rVtimel b => .read b (.port .vtimel)
  | .wVtimel b => .write b (.port .vtimel)
  | .rVtimeh b => .read b (.port .vtimeh)
  | .wVtimeh b => .write b (.port .vtimeh)
  | .rMdmaen b => .read b (.port .mdmaen)
  | .wMdmaen b => .write b (.port .mdmaen)
  | .rHdmaen b => .read b (.port .hdmaen)
  | .wHdmaen b => .write b (.port .hdmaen)
  | .rMemsel b => .read b (.port .memsel)
  | .wMemsel b => .write b (.port .memsel)
  | .rRdnmi b => .read b (.port .rdnmi)
  | .wRdnmi b => .write b (.port .rdnmi)
  | .rTimeup b => .read b (.port .timeup)
  | .wTimeup b => .write b (.port .timeup)
  | .rHvbjoy b => .read b (.port .hvbjoy)
  | .wHvbjoy b => .write b (.port .hvbjoy)
  | .rJoy1l b => .read b (.port .joy1l)
  | .wJoy1l b => .write b (.port .joy1l)
  | .rJoy1h b => .read b (.port .joy1h)
  | .wJoy1h b => .write b (.port .joy1h)
  | .rJoy2l b => .read b (.port .joy2l)
  | .wJoy2l b => .write b (.port .joy2l)
  | .rJoy2h b => .read b (.port .joy2h)
  | .wJoy2h b => .write b (.port .joy2h)
  | .rJoy3l b => .read b (.port .joy3l)
  | .wJoy3l b => .write b (.port .joy3l)
  | .rJoy3h b => .read b (.port .joy3h)
  | .wJoy3h b => .write b (.port .joy3h)
  | .rJoy4l b => .read b (.port .joy4l)
  | .wJoy4l b => .write b (.port .joy4l)
  | .rJoy4h b => .read b (.port .joy4h)
  | .wJoy4h b => .write b (.port .joy4h)
  | .rDmap b c => .read b (.chan c .dmap)
  | .wDmap b c => .write b (.chan c .dmap)
  | .rBbad b c => .read b (.chan c .bbad)
  | .wBbad b c => .write b (.chan c .bbad)
  | .rA1tl b c => .read b (.chan c .a1tl)
  | .wA1tl b c => .write b (.chan c .a1tl)
  | .rA1th b c => .read b (.chan c .a1th)
  | .wA1th b c => .write b (.chan c .a1th)
  | .rA1b b c => .read b (.chan c .a1b)
  | .wA1b b c => .write b (.chan c .a1b)
  | .rDasl b c => .read b (.chan c .dasl)
  | .wDasl b c => .write b (.chan c .dasl)
  | .rDash b c => .read b (.chan c .dash)
  | .wDash b c => .write b (.chan c .dash)
  | .rDasb b c => .read b (.chan c .dasb)
  | .wDasb b c => .write b (.chan c .dasb)
  | .rA2al b c => .read b (.chan c .a2al)
  | .wA2al b c => .write b (.chan c .a2al)
  | .rA2ah b c => .read b (.chan c .a2ah)
  | .wA2ah b c => .write b (.chan c .a2ah)
  | .rNtrl b c => .read b (.chan c .ntrl)
  | .wNtrl b c => .write b (.chan c .ntrl)
  | .rUnused b c => .read b (.chan c .unused)
  | .wUnused b c => .write b (.chan c .unused)
  | .rUnusedMirror b c => .read b (.chan c .unusedMirror)
  | .wUnusedMirror b c => .write b (.chan c .unusedMirror)
  | .rGapC b c => .read b (.chan c .gapC)
  | .wGapC b c => .write b (.chan c .gapC)
  | .rGapD b c => .read b (.chan c .gapD)
  | .wGapD b c => .write b (.chan c .gapD)
  | .rGapE b c => .read b (.chan c .gapE)
  | .wGapE b c => .write b (.chan c .gapE)
  | .rTail b low => .read b (.tail low)
  | .wTail b low => .write b (.tail low)
  | .schedule _ _ | .reschedule _ _ | .deschedule _ | .scheduleAt _ _ | .advance _ | .anyEventDue | .stepOnce =>
    .command rfl
  | .reset | .runFrame | .runInstruction | .setKey _ _ _ | .pause | .resume | .isPaused => .command rfl
  | .evIrq => .event .irq
  | .evVideo => .event .video
  | .evDma => .event .dma
  | .evStall => .event .stall
  | .evJoy => .event .joy

/-- A bus operation is performed as the CPU's request, unless the block is in the fault state (R183 to R192). -/
theorem exec_of_isBusop : ∀ {i : Instr}, isBusop i = true → ∀ s, exec i s = unlessFaulted s (performOp i s)
  | .fetch _, _, _ | .readOperand _, _, _ | .memoryLoad _, _, _ | .memoryStore _ _, _, _ | .dummyRead _, _, _ => rfl
  | .idle, _, _ | .halt, _, _ | .stop, _, _ | .nmiAck, _, _ => rfl

/-- A read row is the read of its place of the window (R123, R220). -/
theorem exec_readRow (bank : Byte) (r : Reg) (s : State) : exec (readRow bank r) s = mmioRead (blockRead r) s := by
  cases r with
  | port p => cases p <;> rfl
  | chan c r => cases r <;> rfl
  | tail low => rfl

/-- A write row is the write of the bus byte to its place of the window, through its address (R123, R220). -/
theorem exec_writeRow (bank : Byte) (r : Reg) (s : State) :
    exec (writeRow bank r) s = mmioWrite (fun v => blockWrite (bank ++ BitVec.ofNat 16 r.offset) v r) s := by
  cases r with
  | port p => cases p <;> rfl
  | chan c r => cases r <;> rfl
  | tail low => rfl

/-- An EVENT row fires its event (R168; log 16). -/
theorem exec_eventRow (e : EventId) (s : State) : exec (eventRow e) s = unlessFaulted s (fireEvent e s) := by
  cases e <;> rfl

/-- RESET of a valid parameter record (R460). -/
theorem exec_reset_of_valid {s : State} (h : s.cfg.Valid) : exec .reset s = .next (resetBlock s) := if_pos h

/-- RESET refuses every other record (R6, R460). -/
theorem exec_reset_of_not_valid {s : State} (h : ¬ s.cfg.Valid) : exec .reset s = .refused .badConfig := if_neg h

/-! ### A step by the word it takes -/

/-- What the next state of a step comes from: an empty inbox, or the word taken from it, held, performed or spelling
no instruction (R120, R180). -/
theorem step_next {s t : State} (h : step s = .next t) :
    (s.inbox = [] ∧ t = s) ∨ ∃ p rest, s.inbox = p :: rest ∧
      ((∃ i, decode p = .ok i ∧ mustWait i (takeWord rest s) = true ∧ holdBusop p (takeWord rest s) = .next t) ∨
        (∃ i, decode p = .ok i ∧ mustWait i (takeWord rest s) = false ∧ exec i (takeWord rest s) = .next t) ∨
        ∃ e, decode p = .error e ∧ noInstruction e (takeWord rest s) = .next t) := by
  unfold step at h
  split at h
  · cases h; exact .inl ⟨‹_›, rfl⟩
  · refine .inr ⟨_, _, ‹_›, ?_⟩
    split at h
    · split at h
      · exact .inl ⟨_, ‹_›, ‹_›, h⟩
      · exact .inr (.inl ⟨_, ‹_›, Bool.eq_false_iff.2 ‹_›, h⟩)
    · exact .inr (.inr ⟨_, ‹_›, h⟩)

end Sys2Proof.Machine
end

section
/-! SUPPORT. Time and the parameters: no part of an instruction but the reset takes cycles back (R31, R173), and none
changes the parameters or the router's table (R5, R12). -/

namespace Sys2Proof.Machine

/-- From `s` to `t` no time goes back, and the parameters and the router's table stay. -/
structure TimeKeeps (s t : State) : Prop where
  committed : s.committed ≤ t.committed
  now       : now s ≤ now t
  cfg       : t.cfg = s.cfg
  regions   : t.regions = s.regions

theorem TimeKeeps.refl (s : State) : TimeKeeps s s := ⟨Nat.le_refl _, Nat.le_refl _, rfl, rfl⟩

theorem TimeKeeps.trans {s t u : State} (h : TimeKeeps s t) (g : TimeKeeps t u) : TimeKeeps s u :=
  ⟨h.committed.trans g.committed, h.now.trans g.now, g.cfg.trans h.cfg, g.regions.trans h.regions⟩

/-- Cycles are charged to the CPU (R181). -/
theorem TimeKeeps.charge {s t : State} (hc : t.committed = s.committed) (ha : s.ahead ≤ t.ahead) (hp : t.cfg = s.cfg)
    (hr : t.regions = s.regions) : TimeKeeps s t :=
  ⟨Nat.le_of_eq hc.symm, Nat.add_le_add (Nat.le_of_eq hc.symm) ha, hp, hr⟩

/-- A state with the same clock, parameters and table. -/
theorem TimeKeeps.of_eq {s t : State} (hc : t.committed = s.committed) (ha : t.ahead = s.ahead) (hp : t.cfg = s.cfg)
    (hr : t.regions = s.regions) : TimeKeeps s t :=
  .charge hc (Nat.le_of_eq ha.symm) hp hr

/-- Committing at least the uncommitted cycles takes none back (R168). -/
theorem TimeKeeps.commit {n : Nat} {s : State} (hn : s.ahead ≤ n) : TimeKeeps s (commit n s) :=
  ⟨by simp, by simp only [Machine.now, commit_committed, commit_ahead]; omega, rfl, rfl⟩

theorem TimeKeeps.of_callback {s t : State} (h : CallbackKeeps s t) : TimeKeeps s t := by
  have hb {α : Type} (f : State → α) : f (blankCallback t) = f (blankCallback s) := congrArg f h.rest
  exact .of_eq (hb State.committed) (hb State.ahead) (hb State.cfg) (hb State.regions)

theorem TimeKeeps.of_cpu {s t : State} (h : CpuKeeps s t) : TimeKeeps s t := by
  have hb {α : Type} (f : State → α) : f (blankCpu t) = f (blankCpu s) := congrArg f h.rest
  exact .of_eq (hb State.committed) (hb State.ahead) (hb State.cfg) (hb State.regions)

theorem TimeKeeps.of_access {s t : State} (h : AccessKeeps s t) : TimeKeeps s t := by
  have hb {α : Type} (f : State → α) : f (blankAccess t) = f (blankAccess s) := congrArg f h
  exact .of_eq (hb State.committed) (hb State.ahead) (hb State.cfg) (hb State.regions)

/-! ### The parts of an operation -/

/-- Every end of a part of an operation keeps the time and the parameters, a block fault too. -/
abbrev TimeSat {α : Type} (s : State) (r : Run α) : Prop := Run.Sat (TimeKeeps s) (TimeKeeps s) r

theorem TimeSat.ok {α : Type} {a : α} {s t : State} (h : TimeKeeps s t) : TimeSat s (.ok a t) := h

theorem TimeSat.bind {α β : Type} {s : State} {r : Run α} {k : α → State → Run β} (h : TimeSat s r)
    (hk : ∀ a t, TimeSat t (k a t)) : TimeSat s (r.bind k) :=
  Run.Sat.bind h (fun a t ht => (hk a t).mono (fun _ => ht.trans) fun _ => ht.trans) fun _ => id

theorem TimeSat.of_cpu {α : Type} {s : State} {r : Run α} (h : CpuSat s r) : TimeSat s r :=
  h.mono (fun _ h => .of_cpu h.1) fun _ h => .of_cpu h.1

/-- The part starts from a state that the time has led to. -/
theorem TimeSat.after {α : Type} {s t : State} {r : Run α} (hr : TimeSat t r) (h : TimeKeeps s t) : TimeSat s r :=
  hr.mono (fun _ => h.trans) fun _ => h.trans

/-- The next state of an operation whose every end keeps the time. -/
theorem TimeKeeps.of_outcome {s t : State} {r : Run Unit} (h : r.outcome = .next t) (hr : TimeSat s r) :
    TimeKeeps s t :=
  Run.Sat.of_next hr h

theorem TimeKeeps.of_unlessFaulted {s t : State} {r : Run Unit} (h : unlessFaulted s r = .next t) (hr : TimeSat s r) :
    TimeKeeps s t := by
  rcases unlessFaulted_next h with rfl | ⟨-, h⟩
  · exact .refl t
  · exact .of_outcome h hr

/-! ### Bus operations -/

theorem cpuRead_time (a : Addr) (s : State) : TimeSat s (cpuRead a s) :=
  TimeSat.bind (.of_cpu (memRead_sat a s)) fun _ _ => .charge rfl (Nat.le_add_right _ _) rfl rfl

theorem cpuWrite_time (a : Addr) (v : Byte) (s : State) : TimeSat s (cpuWrite a v s) :=
  TimeSat.bind (.of_cpu (memWrite_sat a v s)) fun _ _ => .charge rfl (Nat.le_add_right _ _) rfl rfl

theorem dummyReadOp_time (a : Addr) (s : State) : TimeSat s (dummyReadOp a s) :=
  TimeSat.bind (.of_cpu (memRead_sat a s)) fun _ _ => .charge rfl (Nat.le_add_right _ _) rfl rfl

/-- R183 to R192: a bus operation charges cycles or none; a word that is no BUSOP is refused. -/
theorem performOp_time (i : Instr) (s : State) : TimeSat s (performOp i s) := by
  cases i with
  | fetch a | readOperand a | memoryLoad a => exact cpuRead_time a s
  | memoryStore a v => exact cpuWrite_time a v s
  | dummyRead a => exact dummyReadOp_time a s
  | idle => exact .charge rfl (Nat.le_add_right _ _) rfl rfl
  | halt | stop | nmiAck => exact .of_eq rfl rfl rfl rfl
  | _ => exact True.intro

/-! ### Advance and the run loop -/

theorem advance_time (n : Nat) (s : State) : TimeSat s (advance n s) := by
  refine (advance_sat n s).mono (fun t ⟨h, _, hn⟩ => (TimeKeeps.commit hn).trans (.of_callback h)) fun t h => ?_
  rcases h with ⟨h, hn⟩ | ⟨-, h⟩
  · exact (TimeKeeps.commit hn).trans (.of_callback h)
  · cases h; exact .of_eq rfl rfl rfl rfl

theorem performNext_time (s : State) : TimeSat s (performNext s) := by
  have interrupt : TimeKeeps s (takeInterrupt s) := .of_eq (by simp) (by simp) (by simp) (by simp)
  unfold performNext
  split
  · exact .after ((performOp_time _ _).bind fun _ t => .of_eq (by simp) (by simp) (by simp) (by simp)) interrupt
  · trivial

theorem bulkAdvance_time (s : State) : TimeSat s (bulkAdvance s) := by
  unfold bulkAdvance
  split
  · exact .of_eq rfl rfl rfl rfl
  · exact advance_time _ s

theorem runStep_time (s : State) : TimeSat s (runStep s) := by
  unfold runStep
  split
  · exact .refl s
  split
  · exact .of_eq rfl rfl rfl rfl
  split
  · exact advance_time _ s
  split
  · exact .of_eq rfl rfl rfl rfl
  split
  · exact performNext_time s
  · exact bulkAdvance_time s

theorem frameLoop_time (k : Nat) (s : State) : TimeSat s (frameLoop k s) := by
  induction k generalizing s with
  | zero =>
    unfold frameLoop
    split
    · exact .refl s
    · trivial
  | succ k ih =>
    unfold frameLoop
    split
    · exact .refl s
    · exact (runStep_time s).bind fun _ t => ih t

theorem instructionLoop_time (k : Nat) (performed : Bool) (s : State) : TimeSat s (instructionLoop k performed s) := by
  induction k generalizing performed s with
  | zero =>
    unfold instructionLoop
    split
    · exact .refl s
    · trivial
  | succ k ih =>
    unfold instructionLoop
    split
    · exact .refl s
    · exact (runStep_time s).bind fun _ t => ih _ t

/-! ### Instructions -/

theorem replyDelay_time {s : State} {r : Run Unit} (h : TimeSat s r) : TimeSat s (replyDelay r) := by
  cases r with
  | ok _ t => exact TimeKeeps.trans h (.of_eq rfl rfl rfl rfl)
  | raised t => exact TimeKeeps.trans h (.of_eq rfl rfl rfl rfl)
  | stuck f => trivial
  | refused f => trivial

theorem execAdvance_timeKeeps {n : BitVec 48} {s t : State} (h : execAdvance n s = .next t) : TimeKeeps s t := by
  unfold execAdvance at h
  split at h
  · cases h; exact .of_eq rfl rfl rfl rfl
  · exact .of_outcome h (replyDelay_time (advance_time _ s))

theorem execRunFrame_timeKeeps {s t : State} (h : execRunFrame s = .next t) : TimeKeeps s t := by
  unfold execRunFrame at h
  split at h
  · cases h; exact .refl s
  · exact .of_outcome h (.after (frameLoop_time callFuel _) (.of_eq rfl rfl rfl rfl))

theorem execRunInstruction_timeKeeps {s t : State} (h : execRunInstruction s = .next t) : TimeKeeps s t := by
  unfold execRunInstruction at h
  split at h
  · cases h; exact .refl s
  split at h
  · exact .of_outcome h (runStep_time s)
  · exact .of_outcome h (instructionLoop_time callFuel false s)

theorem execSetKey_timeKeeps {bit : BitVec 4} {port : BitVec 1} {pressed : Bool} {s t : State}
    (h : execSetKey bit port pressed s = .next t) : TimeKeeps s t := by
  unfold execSetKey at h
  split at h
  · exact .of_unlessFaulted h (.ok (.of_eq rfl rfl rfl rfl))
  · cases h

theorem execCommand_timeKeeps {s t : State} :
    ∀ {i : Instr}, (rowOf i).format = .cmd → i ≠ .reset → exec i s = .next t → TimeKeeps s t
  | .schedule _ _, _, _, h | .reschedule _ _, _, _, h | .deschedule _, _, _, h | .scheduleAt _ _, _, _, h
  | .pause, _, _, h | .resume, _, _, h => .of_unlessFaulted h (.ok (.of_eq rfl rfl rfl rfl))
  | .anyEventDue, _, _, h | .isPaused, _, _, h => by cases h; exact .of_eq rfl rfl rfl rfl
  | .advance _, _, _, h => execAdvance_timeKeeps h
  | .stepOnce, _, _, h => .of_outcome h (runStep_time s)
  | .runFrame, _, _, h => execRunFrame_timeKeeps h
  | .runInstruction, _, _, h => execRunInstruction_timeKeeps h
  | .setKey _ _ _, _, _, h => execSetKey_timeKeeps h
  | .reset, _, hr, _ => absurd rfl hr

/-- Only a reset takes the time back (R31, R173). -/
theorem exec_timeKeeps {i : Instr} {s t : State} (hi : i ≠ .reset) (h : exec i s = .next t) : TimeKeeps s t := by
  cases instrKind i with
  | busop hb => exact .of_unlessFaulted (exec_of_isBusop hb s ▸ h) (performOp_time i s)
  | read bank r =>
    rw [exec_readRow] at h
    exact .of_unlessFaulted h (.ok (.of_cpu ((blockRead_keeps r s).1.drive _)))
  | write bank r =>
    rw [exec_writeRow] at h
    exact .of_unlessFaulted h (.ok (.of_cpu (blockWrite_keeps _ _ r s).1))
  | command hc => exact execCommand_timeKeeps hc hi h
  | event e =>
    rw [exec_eventRow] at h
    exact .of_unlessFaulted h ((fireEvent_keeps e s).mono (fun _ => .of_callback) fun _ => .of_callback)

theorem mmioRouter_timeKeeps {write : Bool} {a : Addr} {s t : State} (h : mmioRouter write a s = .next t) :
    TimeKeeps s t := by
  refine .of_unlessFaulted h ?_
  split
  · exact (routerMemWrite_sat a _ s).mono (fun _ h => .of_access h.1) fun _ h => .of_access h.1
  · have read : TimeSat s (routerMemRead a s) :=
      (routerMemRead_sat a s).mono (fun _ h => .of_access h.1) fun _ h => .of_access h.1
    exact read.bind fun _ t => .refl t

theorem noInstruction_timeKeeps {e : DecodeError} {s t : State} (h : noInstruction e s = .next t) : TimeKeeps s t := by
  unfold noInstruction at h
  split at h
  · exact mmioRouter_timeKeeps h
  · cases h

/-- A word held at the port has the run loop take one step (R180; log 13). -/
theorem holdBusop_timeKeeps {p : Packet} {s t : State} (h : holdBusop p s = .next t) : TimeKeeps s t :=
  .of_outcome h (.after (runStep_time _) (.of_eq rfl rfl rfl rfl))

/-! ### Steps and the reset -/

/-- A step keeps the time and the parameters unless it performs a RESET. -/
theorem step_timeKeeps {s t : State} (h : step s = .next t) :
    TimeKeeps s t ∨
      ∃ p rest, s.inbox = p :: rest ∧ decode p = .ok .reset ∧ exec .reset (takeWord rest s) = .next t := by
  rcases step_next h with ⟨-, rfl⟩ | ⟨p, rest, hp, hw⟩
  · exact .inl (.refl t)
  have taken : TimeKeeps s (takeWord rest s) := .of_eq rfl rfl rfl rfl
  rcases hw with ⟨-, -, -, held⟩ | ⟨i, hd, -, hx⟩ | ⟨e, -, hn⟩
  · exact .inl (taken.trans (holdBusop_timeKeeps held))
  · by_cases hi : i = .reset
    · subst hi; exact .inr ⟨p, rest, hp, hd, hx⟩
    · exact .inl (taken.trans (exec_timeKeeps hi hx))
  · exact .inl (taken.trans (noInstruction_timeKeeps hn))

/-- RESET keeps the parameters and the router's table (R391, R460; log 30). -/
theorem exec_reset_inputs {s t : State} (h : exec .reset s = .next t) : t.cfg = s.cfg ∧ t.regions = s.regions := by
  by_cases hv : s.cfg.Valid
  · rw [exec_reset_of_valid hv] at h; cases h; exact ⟨rfl, rfl⟩
  · rw [exec_reset_of_not_valid hv] at h; cases h

/-! ### The statements -/

/-- Settles O59: each part of an instruction commits or charges cycles only, and RESET keeps the parameters. -/
theorem timeAndParameters : Obligations.TimeAndParameters := by
  refine ⟨fun s t h noReset => ?_, fun s t h => ?_⟩
  · rcases step_timeKeeps h with hk | ⟨p, rest, hp, hd, -⟩
    · exact ⟨hk.now, hk.committed⟩
    · exact absurd hd (noReset p (by simp [hp]))
  · rcases step_timeKeeps h with hk | ⟨p, rest, -, -, hx⟩
    · exact ⟨hk.cfg, hk.regions⟩
    · simpa using exec_reset_inputs hx

/-- Settles O8: `Valid` is the clauses of R6 followed by the widths (log 2), and RESET asks for nothing else. -/
theorem badConfigIsRefused : Obligations.BadConfigIsRefused := by
  intro s p ok widths
  have valid : p.Valid ↔ ok ∧ widths := by
    constructor
    · rintro ⟨dots, order, lines, latency, align, prio, hw⟩
      exact ⟨⟨dots, order, lines, latency, align, prio⟩, hw⟩
    · rintro ⟨⟨dots, order, lines, latency, align, prio⟩, hw⟩
      exact ⟨dots, order, lines, latency, align, prio, hw⟩
  refine ⟨fun broken => ?_, fun broken => ?_, fun h hw => ?_⟩
  · exact exec_reset_of_not_valid fun hv => broken (valid.1 hv).1
  · exact exec_reset_of_not_valid fun hv => broken (valid.1 hv).2
  · exact ⟨_, exec_reset_of_valid (valid.2 ⟨h, hw⟩)⟩

end Sys2Proof.Machine
end

section
/-! SUPPORT. How an invariant goes through the loops of the run loop, and soundness through every step: what `Sound`
speaks of, the parts of an operation, the instructions by kind, and the reset. -/

namespace Sys2Proof.Machine

/-! ### The loops of the host calls -/

/-- What every run-loop step keeps, RUN_FRAME keeps (R392). -/
theorem frameLoop_sat {P Q : State → Prop} (hstep : ∀ s, P s → Run.Sat P Q (runStep s)) (k : Nat) :
    ∀ s, P s → Run.Sat P Q (frameLoop k s) := by
  induction k with
  | zero =>
    intro s h
    unfold frameLoop
    split
    · exact h
    · trivial
  | succ k ih =>
    intro s h
    unfold frameLoop
    split
    · exact h
    · exact (hstep s h).bind (fun _ t ht => ih t ht) fun _ => id

/-- What every run-loop step keeps, RUN_INSTRUCTION keeps (R393). -/
theorem instructionLoop_sat {P Q : State → Prop} (hstep : ∀ s, P s → Run.Sat P Q (runStep s)) (k : Nat) :
    ∀ performed s, P s → Run.Sat P Q (instructionLoop k performed s) := by
  induction k with
  | zero =>
    intro performed s h
    unfold instructionLoop
    split
    · exact h
    · trivial
  | succ k ih =>
    intro performed s h
    unfold instructionLoop
    split
    · exact h
    · exact (hstep s h).bind (fun _ t ht => ih _ t ht) fun _ => id

/-! ### Soundness -/

/-- The fields that `Sound` speaks of. -/
def soundPart (s : State) : Config.Params × List Host.Cell × Bool × GdmaPhase × Nat × Nat × Vector Half 2 × Vector Half 4 :=
  (s.cfg, s.mem, s.gdmaActive, s.gdmaPhase, s.dot, s.scanline, s.joyInput, s.joy)

theorem Sound.congr {s t : State} (h : Sound s) (e : soundPart t = soundPart s) : Sound t := by
  simp only [soundPart, Prod.mk.injEq] at e
  obtain ⟨cfg, mem, active, phase, dot, scanline, input, joy⟩ := e
  refine ⟨cfg ▸ h.valid, mem ▸ h.memory, ?_, ?_, ?_⟩
  · rw [GdmaAgrees, active, phase]; exact h.gdma
  · rw [InFrame, dot, scanline, cfg]; exact h.frame
  · rw [JoyClean, input, joy]; exact h.joypad

/-- The latched keys are clean when the host's are (R138, R357). -/
theorem joyLatch_clean {input : Vector Half 2} (h : ∀ p : Fin 2, input[p].extractLsb' 0 4 = 0) (n : Fin 4) :
    (#v[input[0], input[1], 0x0000, 0x0000] : Vector Half 4)[n].extractLsb' 0 4 = 0 := by
  match n with
  | 0 => exact h 0
  | 1 => exact h 1
  | 2 | 3 => rfl

theorem Sound.of_callback {s t : State} (h : Sound s) (k : CallbackKeeps s t) : Sound t := by
  have cfg : t.cfg = s.cfg := by have e := congrArg State.cfg k.rest; exact e
  have input : t.joyInput = s.joyInput := by have e := congrArg State.joyInput k.rest; exact e
  obtain ⟨keys, results⟩ := h.joypad
  refine ⟨cfg ▸ h.valid, k.memory h.memory, k.gdma h.gdma, k.frame h.frame, input ▸ keys, ?_⟩
  rcases k.joy with joy | joy
  · exact joy ▸ results
  · exact joy ▸ joyLatch_clean keys

theorem Sound.of_cpu {s t : State} (h : Sound s) (k : CpuKeeps s t) : Sound t := by
  have kept {α : Type} (f : State → α) : f (blankCpu t) = f (blankCpu s) := congrArg f k.rest
  have cfg : t.cfg = s.cfg := kept State.cfg
  have dot : t.dot = s.dot := kept State.dot
  have scanline : t.scanline = s.scanline := kept State.scanline
  have input : t.joyInput = s.joyInput := kept State.joyInput
  have joy : t.joy = s.joy := kept State.joy
  refine ⟨cfg ▸ h.valid, k.memory h.memory, k.gdma h.gdma, ?_, ?_⟩
  · rw [InFrame, dot, scanline, cfg]; exact h.frame
  · rw [JoyClean, input, joy]; exact h.joypad

theorem Sound.of_access {s t : State} (h : Sound s) (k : AccessKeeps s t) (m : MemoryKept s t) : Sound t :=
  h.of_cpu (.of_access k m)

/-! ### The parts of an operation -/

/-- Every end of a part of an operation is sound, a block fault too. -/
abbrev SoundRun {α : Type} (r : Run α) : Prop := Run.Sat Sound Sound r

theorem SoundRun.ok {α : Type} {a : α} {t : State} (h : Sound t) : SoundRun (.ok a t) := h

theorem SoundRun.bind {α β : Type} {r : Run α} {k : α → State → Run β} (h : SoundRun r)
    (hk : ∀ a t, Sound t → SoundRun (k a t)) : SoundRun (r.bind k) :=
  Run.Sat.bind h hk fun _ => id

theorem SoundRun.of_cpu {α : Type} {s : State} {r : Run α} (h : Sound s) (hr : CpuSat s r) : SoundRun r :=
  hr.mono (fun _ k => h.of_cpu k.1) fun _ k => h.of_cpu k.1

/-- The next state of an operation whose every end is sound. -/
theorem Sound.of_unlessFaulted {s t : State} {r : Run Unit} (h : Sound s)
    (ht : unlessFaulted s r = .next t) (hr : SoundRun r) : Sound t := by
  rcases unlessFaulted_next ht with rfl | ⟨-, ht⟩
  · exact h
  · exact hr.of_next ht

theorem memRead_sound (a : Addr) {s : State} (h : Sound s) : SoundRun (memRead a s) := .of_cpu h (memRead_sat a s)

theorem memWrite_sound (a : Addr) (v : Byte) {s : State} (h : Sound s) : SoundRun (memWrite a v s) :=
  .of_cpu h (memWrite_sat a v s)

theorem routerMemRead_sound (a : Addr) {s : State} (h : Sound s) : SoundRun (routerMemRead a s) :=
  (routerMemRead_sat a s).mono (fun _ ⟨k, _, m⟩ => h.of_access k fun hm => m ▸ hm)
    fun _ ⟨k, _, m⟩ => h.of_access k fun hm => m ▸ hm

theorem routerMemWrite_sound (a : Addr) (v : Byte) {s : State} (h : Sound s) : SoundRun (routerMemWrite a v s) :=
  (routerMemWrite_sat a v s).mono (fun _ ⟨k, _, m⟩ => h.of_access k m) fun _ ⟨k, _, m⟩ => h.of_access k m

/-- R183 to R192: after its access a bus operation only charges its cost and returns its byte. -/
theorem performOp_sound (i : Instr) {s : State} (h : Sound s) : SoundRun (performOp i s) := by
  cases i with
  | fetch a | readOperand a | memoryLoad a | dummyRead a => exact (memRead_sound a h).bind fun _ _ ht => ht.congr rfl
  | memoryStore a v => exact (memWrite_sound a v h).bind fun _ _ ht => ht.congr rfl
  | idle | halt | stop | nmiAck => exact h.congr rfl
  | _ => trivial

theorem advance_sound (n : Nat) {s : State} (h : Sound s) : SoundRun (advance n s) := by
  have committed : Sound { s with committed := s.committed + n, ahead := 0 } := h.congr rfl
  refine (advance_sat n s).mono (fun _ ⟨k, _⟩ => committed.of_callback k) fun t ht => ?_
  rcases ht with ⟨k, -⟩ | ⟨-, raised⟩
  · exact committed.of_callback k
  · cases raised; exact h.congr rfl

theorem performNext_sound {s : State} (h : Sound s) : SoundRun (performNext s) := by
  have interrupt : Sound (takeInterrupt s) := h.congr (by simp [soundPart])
  unfold performNext
  split
  · exact (performOp_sound _ interrupt).bind fun _ _ ht => ht.congr (by simp [soundPart])
  · trivial

theorem bulkAdvance_sound {s : State} (h : Sound s) : SoundRun (bulkAdvance s) := by
  unfold bulkAdvance
  split
  · exact h.congr rfl
  · exact advance_sound _ h

theorem runStep_sound {s : State} (h : Sound s) : SoundRun (runStep s) := by
  unfold runStep
  split
  · exact h
  split
  · exact h.congr rfl
  split
  · exact advance_sound _ h
  split
  · exact h.congr rfl
  split
  · exact performNext_sound h
  · exact bulkAdvance_sound h

/-! ### Instructions -/

theorem replyDelay_sound {r : Run Unit} (h : SoundRun r) : SoundRun (replyDelay r) := by
  cases r with
  | ok _ t | raised t => exact Sound.congr h rfl
  | stuck f | refused f => trivial

theorem execAdvance_sound {n : BitVec 48} {s t : State} (h : Sound s) (ht : execAdvance n s = .next t) : Sound t := by
  unfold execAdvance at ht
  split at ht
  · cases ht; exact h.congr rfl
  · exact (replyDelay_sound (advance_sound _ h)).of_next ht

theorem execRunFrame_sound {s t : State} (h : Sound s) (ht : execRunFrame s = .next t) : Sound t := by
  unfold execRunFrame at ht
  split at ht
  · cases ht; exact h
  · have started : Sound { s with frameDone := false } := h.congr rfl
    exact (frameLoop_sat (fun _ => runStep_sound) _ _ started).of_next ht

theorem execRunInstruction_sound {s t : State} (h : Sound s) (ht : execRunInstruction s = .next t) : Sound t := by
  unfold execRunInstruction at ht
  split at ht
  · cases ht; exact h
  split at ht
  · exact (runStep_sound h).of_next ht
  · exact (instructionLoop_sat (fun _ => runStep_sound) _ _ _ h).of_next ht

/-- A button bit of at least 4 leaves bits 3:0 alone (R138, R394). -/
theorem withKey_clean {input : Half} (bit : BitVec 4) (pressed : Bool) (hb : keyBitOk bit = true)
    (h : input.extractLsb' 0 4 = 0) : (withKey input bit pressed).extractLsb' 0 4 = 0 := by
  have high : 4 ≤ bit.toNat := by simpa [keyBitOk] using hb
  ext k hk
  have low : input.getLsbD k = false := by simpa [hk] using congrArg (·.getLsbD k) h
  have other : ¬ bit.toNat ≤ k := by omega
  cases pressed <;> simp [withKey, low, other]

theorem execSetKey_sound {bit : BitVec 4} {port : BitVec 1} {pressed : Bool} {s t : State} (h : Sound s)
    (ht : execSetKey bit port pressed s = .next t) : Sound t := by
  unfold execSetKey at ht
  split at ht
  · rename_i hb
    refine h.of_unlessFaulted ht ?_
    obtain ⟨keys, results⟩ := h.joypad
    refine .ok ⟨h.valid, h.memory, h.gdma, h.frame, fun p => ?_, results⟩
    simp only [Fin.getElem_fin, Vector.getElem_set]
    split
    · exact withKey_clean bit pressed hb (keys ⟨port.toNat, port.isLt⟩)
    · exact keys p
  · cases ht

/-- R66, R462: the state at power-on is sound. -/
theorem reset_sound : Sound State.reset := ⟨by decide, reset_memoryWf, by decide, by decide, by decide⟩

/-- R66, R460: a reset of a valid parameter record leaves a sound state. -/
theorem resetBlock_sound {s : State} (h : Sound s) : Sound (resetBlock s) := by
  obtain ⟨⟨_, dots, _⟩, _, ⟨_, lines⟩, _⟩ := h.valid
  refine ⟨h.valid, h.memory, reset_sound.gdma, ⟨?_, ?_⟩, h.joypad.1, reset_sound.joypad.2⟩
  · exact Nat.lt_of_le_of_lt (Nat.zero_le _) dots
  · exact Nat.lt_of_le_of_lt (Nat.zero_le _) lines

theorem execCommand_sound {s t : State} (h : Sound s) :
    ∀ {i : Instr}, (rowOf i).format = .cmd → exec i s = .next t → Sound t
  | .schedule _ _, _, ht | .reschedule _ _, _, ht | .deschedule _, _, ht | .scheduleAt _ _, _, ht | .pause, _, ht
  | .resume, _, ht => h.of_unlessFaulted ht (.ok (h.congr rfl))
  | .anyEventDue, _, ht | .isPaused, _, ht => by cases ht; exact h.congr rfl
  | .advance _, _, ht => execAdvance_sound h ht
  | .stepOnce, _, ht => (runStep_sound h).of_next ht
  | .runFrame, _, ht => execRunFrame_sound h ht
  | .runInstruction, _, ht => execRunInstruction_sound h ht
  | .setKey _ _ _, _, ht => execSetKey_sound h ht
  | .reset, _, ht => by rw [exec_reset_of_valid h.valid] at ht; cases ht; exact resetBlock_sound h

/-- Every instruction keeps a sound state sound. -/
theorem exec_sound {i : Instr} {s t : State} (h : Sound s) (ht : exec i s = .next t) : Sound t := by
  cases instrKind i with
  | busop hb => exact h.of_unlessFaulted (exec_of_isBusop hb s ▸ ht) (performOp_sound i h)
  | read bank r =>
    rw [exec_readRow] at ht
    exact h.of_unlessFaulted ht (.ok (h.of_cpu ((blockRead_keeps r s).1.drive _)))
  | write bank r =>
    rw [exec_writeRow] at ht
    exact h.of_unlessFaulted ht (.ok (h.of_cpu (blockWrite_keeps _ _ r s).1))
  | command hc => exact execCommand_sound h hc ht
  | event e =>
    rw [exec_eventRow] at ht
    exact h.of_unlessFaulted ht ((fireEvent_keeps e s).mono (fun _ => h.of_callback) fun _ => h.of_callback)

/-- A word that spells no instruction is at most the router's access (R123). -/
theorem noInstruction_sound {e : DecodeError} {s t : State} (h : Sound s) (ht : noInstruction e s = .next t) :
    Sound t := by
  unfold noInstruction at ht
  split at ht
  · refine h.of_unlessFaulted ht ?_
    split
    · exact routerMemWrite_sound _ _ h
    · exact (routerMemRead_sound _ h).bind fun _ _ => id
  · cases ht

/-- Settles O55: each part of a step, by the word it takes, keeps what `Sound` speaks of or rewrites it within its
bounds. -/
theorem everyStepKeepsSound : Obligations.EveryStepKeepsSound := by
  intro s t h ht
  rcases step_next ht with ⟨-, rfl⟩ | ⟨p, rest, -, hw⟩
  · exact h
  have taken : Sound (takeWord rest s) := h.congr rfl
  rcases hw with ⟨-, -, -, held⟩ | ⟨i, -, -, performed⟩ | ⟨e, -, none⟩
  · have queued : Sound { takeWord rest s with port := (takeWord rest s).port ++ [requestOf p (takeWord rest s)] } :=
      taken.congr rfl
    exact (runStep_sound queued).of_next held
  · exact exec_sound taken performed
  · exact noInstruction_sound taken none

end Sys2Proof.Machine
end

section
/-! SUPPORT. Regularity through the run loop: the clauses a callback keeps, what holds inside a drain, the operations
of the CPU, and the run-loop step. -/

namespace Sys2Proof.Machine

/-! ### What a callback keeps -/

/-- The clauses of `Regular` that do not speak of time: every callback keeps them, whether it goes on or faults. -/
structure Orderly (s : State) : Prop where
  valid : s.cfg.Valid
  gdma  : GdmaAgrees s
  stall : StallAgrees s
  frame : InFrame s
  dma   : (event s .dma).queued = true → s.gdmaPhase ≠ .idle

theorem Regular.orderly {s : State} (h : Regular s) : Orderly s := ⟨h.valid, h.gdma, h.stall, h.frame, h.dma⟩

/-- In the fault state the clauses of R67 on time say nothing. -/
theorem Orderly.regular_of_fault {s : State} (h : Orderly s) (hf : TransferFault s) : Regular s := by
  obtain ⟨f, hf, -⟩ := hf
  have dead : ¬ Live s := by simp [hf]
  exact ⟨h.valid, h.gdma, h.stall, fun live => absurd live dead, h.frame, fun live => absurd live dead, h.dma⟩

/-- The fields that `Orderly` speaks of. -/
def orderlyPart (s : State) : Config.Params × Bool × GdmaPhase × Bool × Nat × Event × Bool × Nat × Nat :=
  (s.cfg, s.gdmaActive, s.gdmaPhase, s.stallActive, s.stallUntil, event s .stall, (event s .dma).queued, s.dot, s.scanline)

theorem Orderly.congr {s t : State} (h : Orderly s) (e : orderlyPart t = orderlyPart s) : Orderly t := by
  simp only [orderlyPart, Prod.mk.injEq] at e
  obtain ⟨cfg, active, phase, stalled, endsAt, stall, dma, dot, scanline⟩ := e
  refine ⟨cfg ▸ h.valid, ?_, ?_, ?_, ?_⟩
  · rw [GdmaAgrees, active, phase]; exact h.gdma
  · rw [StallAgrees, stalled, endsAt, stall]; exact h.stall
  · rw [InFrame, dot, scanline, cfg]; exact h.frame
  · rw [dma, phase]; exact h.dma

/-- A queued event other than EV_STALL leaves the queue (R165). -/
theorem Orderly.deschedule {e : EventId} {s : State} (h : Orderly s) (he : e ≠ .stall) : Orderly (deschedule e s) := by
  refine ⟨h.valid, h.gdma, ?_, h.frame, fun hd => h.dma ?_⟩
  · rw [StallAgrees, event_deschedule_other s he.symm]; exact h.stall
  · rw [event_deschedule] at hd
    split at hd
    · cases hd
    · exact hd

/-- R196: EV_STALL ends the stall it was queued for. -/
theorem Orderly.stallEnd {s : State} (h : Orderly s) :
    Orderly { Machine.deschedule .stall s with stallActive := false } :=
  ⟨h.valid, h.gdma, by simp [StallAgrees, event], h.frame, h.dma⟩

theorem Orderly.of_dot {s t : State} (h : Orderly s) (k : DotKeeps s t) : Orderly t := by
  have kept {α : Type} (f : State → α) : f (blankTick t) = f (blankTick s) := congrArg f k.rest
  have cfg : t.cfg = s.cfg := kept State.cfg
  have active : t.gdmaActive = s.gdmaActive := kept State.gdmaActive
  have phase : t.gdmaPhase = s.gdmaPhase := kept State.gdmaPhase
  have dot : t.dot = s.dot := kept State.dot
  have scanline : t.scanline = s.scanline := kept State.scanline
  refine ⟨cfg ▸ h.valid, ?_, k.stall h.stall, ?_, ?_⟩
  · rw [GdmaAgrees, active, phase]; exact h.gdma
  · rw [InFrame, dot, scanline, cfg]; exact h.frame
  · rw [k.dma, phase]; exact h.dma

/-- R294 to R302: a GDMA step that has left the queue. -/
theorem Orderly.of_gdma {s t : State} (h : Orderly s) (k : GdmaKeeps s t) (hd : (event s .dma).queued = false) :
    Orderly t := by
  have kept {α : Type} (f : State → α) : f (blankGdma t) = f (blankGdma s) := congrArg f k.rest
  have cfg : t.cfg = s.cfg := kept State.cfg
  have stalled : t.stallActive = s.stallActive := kept State.stallActive
  have endsAt : t.stallUntil = s.stallUntil := kept State.stallUntil
  have dot : t.dot = s.dot := kept State.dot
  have scanline : t.scanline = s.scanline := kept State.scanline
  refine ⟨cfg ▸ h.valid, k.gdma h.gdma, ?_, ?_, k.dma hd⟩
  · rw [StallAgrees, stalled, endsAt, k.other .stall (by simp)]; exact h.stall
  · rw [InFrame, dot, scanline, cfg]; exact h.frame

theorem Orderly.advancePosition {s : State} (h : Orderly s) : Orderly (advancePosition s) := by
  have moved : orderlyPart { Machine.advancePosition s with dot := s.dot, scanline := s.scanline } = orderlyPart s := by
    unfold Machine.advancePosition
    split
    · split <;> rfl
    · rfl
  have rest := h.congr moved
  exact ⟨rest.valid, rest.gdma, rest.stall, advancePosition_inFrame h.frame, rest.dma⟩

/-- R420: the comparator queues EV_IRQ at most. -/
theorem Orderly.irqCompare {t0 : Nat} {s : State} (h : Orderly s) : Orderly (irqCompare t0 s) := by
  unfold Machine.irqCompare
  split
  · exact h.congr rfl
  · exact h

/-! ### Inside a drain -/

/-- What holds between two events of a drain (R168): the clauses of `Regular` but (f), and no fault. -/
structure Draining (s : State) : Prop where
  orderly : Orderly s
  live    : Live s
  video   : (event s .video).queued = true
  charged : s.ahead = 0

/-- How a part of the run loop ends from a regular live state: regular and live, or with a fault of an access or a
transfer. -/
abbrev RegularRun {α : Type} (r : Run α) : Prop :=
  Run.Sat (fun t => Regular t ∧ Live t) (fun t => Regular t ∧ TransferFault t) r

/-- Nothing is due at the end of a drain, so nothing lies behind (R67 (f)). -/
theorem Draining.regular {s : State} (h : Draining s) (hd : dueEvent s = none) : Regular s where
  valid := h.orderly.valid
  gdma := h.orderly.gdma
  stall := h.orderly.stall
  video _ := h.video
  frame := h.orderly.frame
  behind _ e he := Nat.le_of_lt ((dueEvent_none_iff s).1 hd e he)
  dma := h.orderly.dma

/-- The state in which the callback of an event other than EV_STALL starts. -/
theorem Draining.fired {e : EventId} {s : State} (h : Draining s) (he : e ≠ .stall) :
    Orderly (setCurrent (some e) (deschedule e s)) := (h.orderly.deschedule he).congr rfl

/-- How a callback ends: all but (f) still holds and EV_VIDEO is queued, or a transfer has faulted. -/
abbrev CallbackRun (r : Run Unit) : Prop :=
  Run.Sat (fun t => Orderly t ∧ Live t ∧ (event t .video).queued = true) (fun t => Orderly t ∧ TransferFault t) r

/-- R351: a tick requeues EV_VIDEO. -/
theorem videoTick_run (late : Nat) {s : State} (h : Orderly s) (live : Live s) : CallbackRun (videoTick late s) := by
  refine (videoTick_sat late s).mono (fun t ⟨m, k, kf, _, ht⟩ => ?_) fun t ⟨k, hf⟩ => ⟨h.advancePosition.of_dot k, hf⟩
  have compared : Orderly (irqCompare (s.committed - late) m) := (h.advancePosition.of_dot k).irqCompare
  have fault : (irqCompare (s.committed - late) m).fault = m.fault := by unfold irqCompare; split <;> rfl
  subst ht
  exact ⟨compared.congr rfl, by simp [Live, fault, kf, live], by simp⟩

/-- R294: a GDMA step is queued only while a GDMA runs, so it finds the sequencer at work. -/
theorem gdmaStep_run (late : Nat) {s : State} (h : Orderly s) (live : Live s) (hp : s.gdmaPhase ≠ .idle)
    (hd : (event s .dma).queued = false) (hv : (event s .video).queued = true) : CallbackRun (gdmaStep late s) := by
  refine (gdmaStep_sat late s).mono (fun t ⟨k, kf⟩ => ?_) fun t ⟨k, _, hf⟩ => ?_
  · exact ⟨h.of_gdma k hd, kf.trans live, by rw [k.other .video (by simp)]; exact hv⟩
  · exact ⟨h.of_gdma k hd, hf.resolve_right hp⟩

/-- The callback of an event that a drain fires. -/
theorem Draining.dispatch {e : EventId} {s : State} (h : Draining s) (hq : (event s e).queued = true) (late : Nat) :
    CallbackRun (dispatch e late (setCurrent (some e) (deschedule e s))) := by
  have live := h.live
  have video := h.video
  unfold Machine.dispatch
  rw [if_neg (by simpa using h.charged)]
  cases e with
  | irq =>
    have fired := h.fired (e := .irq) (by simp)
    simp only [irqAssert]
    split
    · exact ⟨fired.congr rfl, live, video⟩
    · exact ⟨fired, live, video⟩
  | video => exact videoTick_run late (h.fired (by simp)) live
  | dma => exact gdmaStep_run late (h.fired (by simp)) live (h.orderly.dma hq) rfl video
  | stall => exact ⟨h.orderly.stallEnd.congr rfl, live, video⟩
  | joy => exact ⟨(h.fired (e := .joy) (by simp)).congr rfl, live, video⟩

/-- Firing a due event keeps what holds inside a drain (R168). -/
theorem Draining.fireEvent {e : EventId} {s : State} (h : Draining s) (hd : dueEvent s = some e) :
    Run.Sat Draining (fun t => Regular t ∧ TransferFault t) (fireEvent e s) := by
  have ends : CallbackRun (Machine.fireEvent e s) :=
    callbackDone_sat ((h.dispatch (dueEvent_some hd).1 _).mono (fun _ ⟨o, l, v⟩ => ⟨o.congr rfl, l, v⟩)
      fun _ ⟨o, f⟩ => ⟨o.congr rfl, f⟩)
  refine (ends.and (fireEvent_keeps e s)).mono (fun t ⟨⟨o, live, video⟩, k⟩ => ?_) fun t ⟨⟨o, f⟩, _⟩ => ?_
  · have ahead : t.ahead = s.ahead := by have e := congrArg State.ahead k.rest; exact e
    exact ⟨o, live, video, ahead.trans h.charged⟩
  · exact ⟨o.regular_of_fault f, f⟩

/-- An Advance that covers the uncommitted cycles (R168). -/
theorem advance_regular {n : Nat} {s : State} (h : Regular s) (live : Live s) (hn : s.ahead ≤ n) :
    RegularRun (advance n s) := by
  have start : Draining (commit n s) := ⟨h.orderly.congr rfl, live, h.video live, rfl⟩
  unfold advance
  rw [if_neg (Nat.not_lt.2 hn)]
  exact (drain_sat (fun _ _ hs hd => hs.fireEvent hd) _ _ start).mono (fun _ ⟨ht, hd⟩ => ⟨ht.regular hd, ht.live⟩)
    fun _ => id

/-! ### The operations of the CPU -/

/-- The fields that `Regular` speaks of. -/
def regularPart (s : State) :
    Config.Params × Bool × GdmaPhase × Bool × Nat × Events × Nat × Nat × Nat × Option FaultRecord :=
  (s.cfg, s.gdmaActive, s.gdmaPhase, s.stallActive, s.stallUntil, s.events, s.dot, s.scanline, s.committed, s.fault)

theorem Regular.congr {s t : State} (h : Regular s) (e : regularPart t = regularPart s) : Regular t := by
  simp only [regularPart, Prod.mk.injEq] at e
  obtain ⟨cfg, active, phase, stalled, endsAt, events, dot, scanline, committed, fault⟩ := e
  have orderly : Orderly t := h.orderly.congr (by simp [orderlyPart, event, *])
  refine ⟨orderly.valid, orderly.gdma, orderly.stall, fun live => ?_, orderly.frame, fun live e => ?_, orderly.dma⟩
  · rw [event_congr events]; exact h.video (fault.symm.trans live)
  · rw [event_congr events, committed]; exact h.behind (fault.symm.trans live) e

/-- An access of the CPU keeps a regular state regular: it may take EV_IRQ from the queue, and it may start a GDMA at a
time that has not passed (R226, R291). -/
theorem Regular.of_cpu {s t : State} (h : Regular s) (live : Live s) (k : CpuKeeps s t) : Regular t := by
  have kept {α : Type} (f : State → α) : f (blankCpu t) = f (blankCpu s) := congrArg f k.rest
  have cfg : t.cfg = s.cfg := kept State.cfg
  have stalled : t.stallActive = s.stallActive := kept State.stallActive
  have endsAt : t.stallUntil = s.stallUntil := kept State.stallUntil
  have dot : t.dot = s.dot := kept State.dot
  have scanline : t.scanline = s.scanline := kept State.scanline
  have committed : t.committed = s.committed := kept State.committed
  have align : 1 ≤ s.cfg.dmaAlign := by obtain ⟨-, -, -, -, align, -⟩ := h.valid; exact align
  have behind := h.behind live
  refine ⟨cfg ▸ h.valid, k.gdma h.gdma, ?_, fun _ => ?_, ?_, fun _ e he => ?_, fun hd => ?_⟩
  · rw [StallAgrees, stalled, endsAt, k.stall]; exact h.stall
  · rw [k.video]; exact h.video live
  · rw [InFrame, dot, scanline, cfg]; exact h.frame
  · rw [committed]
    cases e with
    | irq => have same := k.irq he; rw [same] at he ⊢; exact behind _ he
    | video => rw [k.video] at he ⊢; exact behind _ he
    | stall => rw [k.stall] at he ⊢; exact behind _ he
    | joy => rw [k.joy] at he ⊢; exact behind _ he
    | dma =>
      rcases k.dma with same | ⟨-, -, armed⟩
      · rw [same] at he ⊢; exact behind _ he
      · exact armed align
  · rcases k.dma with same | ⟨-, busy, -⟩
    · rw [same] at hd
      exact k.phase.resolve_right (h.dma hd) ▸ h.dma hd
    · exact busy

theorem RegularRun.of_cpu {α : Type} {s : State} {r : Run α} (h : Regular s) (live : Live s) (hr : CpuSat s r) :
    RegularRun r :=
  hr.mono (fun _ ⟨k, kf⟩ => ⟨h.of_cpu live k, kf.trans live⟩) fun _ ⟨k, f⟩ => ⟨h.of_cpu live k, f⟩

theorem RegularRun.bind {α β : Type} {r : Run α} {k : α → State → Run β} (h : RegularRun r)
    (hk : ∀ a t, Regular t → Live t → RegularRun (k a t)) : RegularRun (r.bind k) :=
  Run.Sat.bind h (fun a t ⟨ht, live⟩ => hk a t ht live) fun _ => id

/-- R183 to R192: after its access a bus operation only charges its cost and returns its byte. -/
theorem performOp_regular (i : Instr) {s : State} (h : Regular s) (live : Live s) : RegularRun (performOp i s) := by
  cases i with
  | fetch a | readOperand a | memoryLoad a | dummyRead a =>
    exact (RegularRun.of_cpu h live (memRead_sat a s)).bind fun _ _ ht live => ⟨ht.congr rfl, live⟩
  | memoryStore a v =>
    exact (RegularRun.of_cpu h live (memWrite_sat a v s)).bind fun _ _ ht live => ⟨ht.congr rfl, live⟩
  | idle | halt | stop | nmiAck => exact ⟨h.congr rfl, live⟩
  | _ => trivial

theorem performNext_regular {s : State} (h : Regular s) (live : Live s) : RegularRun (performNext s) := by
  have interrupt : Regular (takeInterrupt s) := h.congr (by simp [regularPart])
  unfold performNext
  split
  · exact (performOp_regular _ interrupt ((takeInterrupt_fault s).trans live)).bind fun _ t ht live =>
      ⟨ht.congr (by simp [regularPart]), (cpuAdvance_fault t).trans live⟩
  · trivial

/-! ### The run-loop step -/

/-- A step from a regular state finds no clause of R67 broken (R415; log 17). -/
theorem Regular.brokenInvariant_none {s : State} (h : Regular s) (live : Live s) : brokenInvariant s = none := by
  have gdma : ¬ s.gdmaActive ≠ (s.gdmaPhase != .idle) := by
    rw [not_not, Bool.eq_iff_iff, bne_iff_ne]
    exact h.gdma
  have stall : ¬ s.stallActive ≠ ((event s .stall).queued && (event s .stall).when == s.stallUntil) := by
    rw [not_not, Bool.eq_iff_iff, Bool.and_eq_true, beq_iff_eq]
    exact h.stall
  simp [brokenInvariant, gdma, stall, h.video live, h.frame]

/-- Charging a CPU in bulk reaches the horizon, which a queued EV_VIDEO gives and which is not due (R197, R172). -/
theorem bulkAdvance_regular {s : State} (h : Regular s) (live : Live s) (hd : anyEventDue s = false) :
    RegularRun (bulkAdvance s) := by
  obtain ⟨w, hw⟩ := horizon_isSome (h.video live)
  have later : now s < w := by simpa [anyEventDue, hw] using hd
  simp only [bulkAdvance, hw]
  exact advance_regular h live (by unfold now at later; omega)

theorem runStep_regular {s : State} (h : Regular s) (live : Live s) : RegularRun (runStep s) := by
  have running : ¬ s.fault.isSome = true := by simp [live]
  unfold runStep
  rw [if_neg running, h.brokenInvariant_none live]
  simp only
  split
  · exact advance_regular h live (Nat.le_refl _)
  · rename_i hd
    split
    · exact ⟨h.congr rfl, live⟩
    split
    · exact performNext_regular h live
    · exact bulkAdvance_regular h live (Bool.eq_false_iff.2 hd)

/-- The host's loops, and STEP, from a regular live state. -/
theorem RegularRun.next {r : Run Unit} {t : State} (h : RegularRun r) (ht : r.outcome = .next t) :
    Regular t ∧ ∀ f, t.fault = some f → f.code ≠ .invariant := by
  rcases Run.outcome_next ht with rfl | rfl
  · exact ⟨h.1, fun f hf => by simp [h.2] at hf⟩
  · obtain ⟨regular, g, hg, code⟩ := h
    exact ⟨regular, fun f hf => by rw [hg] at hf; cases hf; exact code⟩

/-- The three rows that run the CPU, from a live state: a loop of run-loop steps, or, when paused, nothing. -/
theorem runLoop_regular {i : Instr} {s t : State} (hi : i = .stepOnce ∨ i = .runFrame ∨ i = .runInstruction)
    (h : Regular s) (live : Live s) (ht : exec i s = .next t) :
    Regular t ∧ ∀ f, t.fault = some f → f.code ≠ .invariant := by
  have steps : ∀ u, Regular u ∧ Live u → RegularRun (runStep u) := fun _ ⟨hu, hl⟩ => runStep_regular hu hl
  have stays : Regular s ∧ ∀ f, s.fault = some f → f.code ≠ .invariant := ⟨h, fun f hf => by simp [live] at hf⟩
  rcases hi with rfl | rfl | rfl
  · exact (runStep_regular h live).next ht
  · simp only [exec, execRunFrame] at ht
    split at ht
    · cases ht; exact stays
    · exact RegularRun.next (frameLoop_sat steps callFuel { s with frameDone := false } ⟨h.congr rfl, live⟩) ht
  · simp only [exec, execRunInstruction] at ht
    split at ht
    · cases ht; exact stays
    split at ht
    · exact (runStep_regular h live).next ht
    · exact RegularRun.next (instructionLoop_sat steps callFuel false s ⟨h, live⟩) ht

/-- In the fault state the run loop does nothing (R398). -/
theorem runLoop_faulted {i : Instr} {s : State} (hi : i = .stepOnce ∨ i = .runFrame ∨ i = .runInstruction)
    (hf : ¬ Live s) : exec i s = .next s := by
  have fault : s.fault.isSome = true := Option.isSome_iff_ne_none.2 hf
  rcases hi with rfl | rfl | rfl
  · simp [exec, execStepOnce, runStep, fault, Run.outcome]
  · simp [exec, execRunFrame, fault]
  · simp [exec, execRunInstruction, fault]

/-- Settles O56: `Regular` is kept by every run-loop step, inside a drain without (f), which the drain's end gives
back; a regular state breaks no clause that a step, a callback or a bulk charge looks at. -/
theorem runLoopKeepsRegular : Obligations.RunLoopKeepsRegular := by
  intro i s t hi h ht
  by_cases live : Live s
  · obtain ⟨regular, code⟩ := runLoop_regular hi h live ht
    exact ⟨regular, fun _ => code⟩
  · rw [runLoop_faulted hi live] at ht
    cases ht
    exact ⟨h, fun l => absurd l live⟩

end Sys2Proof.Machine
end

section
/-! SUPPORT. The state after a reset, and the reads of the channel registers. -/

namespace Sys2Proof.Machine

/-! ### Reset -/

/-- R47, R50, R66: every channel after a reset. -/
theorem channel_resetBlock (s : State) (c : Chan) : channel (resetBlock s) c = Channel.reset :=
  Vector.getElem_replicate c.isLt

/-- R33, R66: EV_VIDEO alone is queued after a reset. -/
theorem queued_resetBlock (s : State) (e : EventId) : (event (resetBlock s) e).queued = true ↔ e = .video := by
  cases e <;> simp [event, getEvent, resetBlock, State.reset, Event.none]

/-- Settles O7: the next state of RESET is `resetBlock`, which gives every item its value of the table of R66. -/
theorem resetValues : Obligations.ResetValues := by
  refine ⟨fun s valid => ⟨_, exec_reset_of_valid valid, ?_⟩, fun s valid => ⟨_, exec_reset_of_valid valid, ?_⟩⟩
  · have channels (c : Chan) : (channel (resetBlock s) c).written = 0 ∧ (channel (resetBlock s) c).hdmaDoTransfer = false ∧
        (channel (resetBlock s) c).hdmaTerminated = true := by
      rw [channel_resetBlock]; exact ⟨rfl, rfl, rfl⟩
    have joy (n : Fin 4) : (resetBlock s).joy[n] = 0 := Vector.getElem_replicate n.isLt
    exact ⟨rfl, rfl, rfl, rfl, rfl, rfl, rfl, rfl, rfl, channels, rfl, rfl, rfl, rfl, rfl, rfl, rfl, rfl, rfl, rfl, rfl, rfl,
      rfl, rfl, rfl, rfl, rfl, joy, rfl, rfl, rfl, rfl, rfl, rfl, rfl, rfl, rfl, rfl, rfl, rfl⟩
  · exact ⟨queued_resetBlock s, rfl, rfl, rfl, rfl, rfl, rfl, rfl, rfl, rfl⟩

/-- R66, R67: the state at power-on is regular. -/
theorem reset_regular : Regular State.reset where
  valid := by decide
  gdma := by decide
  stall := by decide
  video _ := by decide
  frame := by decide
  behind _ _ _ := Nat.zero_le _
  dma := by decide

/-- Settles O9: at power-on EV_VIDEO waits for its first dot, with nothing else queued. -/
theorem resetMeetsTheInvariants : Obligations.ResetMeetsTheInvariants :=
  ⟨reset_sound, reset_regular, 0, by decide⟩

/-! ### Reads of the channel registers -/

/-- R47, R241 to R252: a read row of a register byte written since reset. -/
theorem exec_readRow_written {c : Chan} {r : ChanReg} {k : Nat} {s : State} (bank : Byte) (live : Live s)
    (hk : writtenIndex r = some k) (hw : (channel s c).written.getLsbD k = true) :
    exec (readRow bank (.chan c r)) s = .next { s with openBus := chanByte (channel s c) r } := by
  rw [exec_readRow, mmioRead, unlessFaulted_live live]
  simp only [blockRead, readChannelReg, hk, isWritten, hw, if_true]
  rfl

/-- R47: a read row of a register byte not written since reset takes a free byte. -/
theorem exec_readRow_unwritten {c : Chan} {r : ChanReg} {k : Nat} {s : State} (bank : Byte) (live : Live s)
    (hk : writtenIndex r = some k) (hw : (channel s c).written.getLsbD k = false) :
    exec (readRow bank (.chan c r)) s =
      .next { s with draws := s.draws + 1, openBus := Config.freeByte s.draws } := by
  rw [exec_readRow, mmioRead, unlessFaulted_live live]
  simp only [blockRead, readChannelReg, hk, isWritten, hw, Bool.false_eq_true, if_false]
  rfl

/-- Settles O30: every row is the read row of its register, whose byte is the stored one or the next free one; the halves
of a pair are by definition its low byte and that of the pair shifted. -/
theorem channelReads : Obligations.ChannelReads := by
  refine ⟨fun bank c s live => ?_, fun bank c r k s live hk hw => ⟨_, exec_readRow_unwritten bank live hk hw⟩⟩
  have read (r : ChanReg) {k : Nat} (hk : writtenIndex r = some k) (hw : (channel s c).written.getLsbD k = true) :=
    exec_readRow_written bank live hk hw
  exact ⟨read .dmap rfl, read .bbad rfl, read .a1tl rfl, read .a1th rfl, read .a1b rfl, read .dasl rfl, read .dash rfl,
    read .dasb rfl, read .a2al rfl, read .a2ah rfl, read .ntrl rfl,
    fun hw => ⟨read .unused rfl hw, read .unusedMirror rfl hw⟩⟩

end Sys2Proof.Machine
end

section
/-! SUPPORT. The CPU's interrupts: what it takes where it samples, what a bus operation leaves of the CPU's requests,
a granted step as its request's row, and an engine changed before a store. -/

namespace Sys2Proof.Machine

/-! ### What the CPU takes -/

/-- Where the CPU samples, an NMI comes first, and an IRQ only unmasked (R423). -/
theorem interruptTaken_eq (s : State) :
    interruptTaken s =
      if granted s = true ∧ wordKind (presented s).word = 0 then
        if s.nmiRequest = true then some .nmi
        else if s.irqFlag = true ∧ (presented s).irqDisable = false then some .irq else none
      else none := by
  simp [interruptTaken, CpuRequest.atFetch, irqLine]

theorem interruptTaken_nmi_iff (s : State) :
    interruptTaken s = some .nmi ↔ (granted s = true ∧ wordKind (presented s).word = 0) ∧ s.nmiRequest = true := by
  rw [interruptTaken_eq]
  split
  · split
    · simp [*]
    · split <;> simp [*]
  · rename_i off
    simp only [reduceCtorEq, false_iff]
    exact fun h => off h.1

theorem interruptTaken_irq_iff (s : State) :
    interruptTaken s = some .irq ↔ (granted s = true ∧ wordKind (presented s).word = 0) ∧
      s.nmiRequest = false ∧ s.irqFlag = true ∧ (presented s).irqDisable = false := by
  rw [interruptTaken_eq]
  split
  · split
    · simp [*]
    · split <;> simp_all
  · rename_i off
    simp only [reduceCtorEq, false_iff]
    exact fun h => off h.1

/-- The kind of a word the engine spells (R121). -/
theorem wordKind_busWord (kind : BitVec 4) (a : Addr) (v : Byte) : wordKind (busWord kind a v) = kind := by
  refine BitVec.eq_of_toNat_eq ?_
  rw [← (bitField_busWord kind a v).1, wordKind, BitVec.extractLsb'_toNat, Nat.shiftRight_eq_div_pow, bitField,
    BitVec.toNat_setWidth]
  have := (busWord kind a v).isLt
  omega

/-- Off a boundary the CPU takes no interrupt (R423). -/
theorem interruptTaken_of_kind {s : State} (h : wordKind (presented s).word ≠ 0) : interruptTaken s = none := by
  rw [interruptTaken_eq, if_neg fun boundary => h boundary.2]

/-! ### Bus operations and the CPU's requests -/

/-- From `s` to `t` the CPU's requests stay: the words at its port, its stream and its engine. -/
structure RequestsKept (s t : State) : Prop where
  port   : t.port = s.port
  script : t.cpuScript = s.cpuScript
  engine : t.cpuEngine = s.cpuEngine

theorem RequestsKept.of_cpu {s t : State} (k : CpuKeeps s t) : RequestsKept s t := by
  have kept {α : Type} (f : State → α) : f (blankCpu t) = f (blankCpu s) := congrArg f k.rest
  exact ⟨kept State.port, kept State.cpuScript, kept State.cpuEngine⟩

/-- An access, with what the CPU does with its cost and its byte, leaves the requests, and faults or not. -/
theorem access_requests {α : Type} {s : State} {r : Run α} (h : CpuSat s r) {k : α → State → State}
    (hk : ∀ a t, (k a t).fault = t.fault ∧ RequestsKept t (k a t)) :
    Run.Sat (fun t => t.fault = s.fault ∧ RequestsKept s t) TransferFault (r.bind fun a t => .ok () (k a t)) := by
  refine Run.Sat.bind h (fun a t ⟨c, cf⟩ => ?_) fun t ⟨_, f⟩ => f
  obtain ⟨kf, kept⟩ := hk a t
  have before := RequestsKept.of_cpu c
  exact ⟨kf.trans cf, kept.port.trans before.port, kept.script.trans before.script, kept.engine.trans before.engine⟩

/-- R183 to R192: a bus operation that goes on raises no fault, and leaves the CPU's requests to `cpuAdvance`. -/
theorem performOp_requests (i : Instr) (s : State) :
    Run.Sat (fun t => t.fault = s.fault ∧ RequestsKept s t) TransferFault (performOp i s) := by
  cases i with
  | fetch a | readOperand a | memoryLoad a | dummyRead a =>
    exact access_requests (memRead_sat a s) fun _ _ => ⟨rfl, rfl, rfl, rfl⟩
  | memoryStore a v => exact access_requests (memWrite_sat a v s) fun _ _ => ⟨rfl, rfl, rfl, rfl⟩
  | idle | halt | stop | nmiAck => exact ⟨rfl, rfl, rfl, rfl⟩
  | _ => trivial

/-- A BUSOP word spells a bus operation (R121, R122). -/
theorem isBusop_of_decodeBusop {w : BitVec 64} {i : Instr} (h : decodeBusop w = .ok i) : isBusop i = true := by
  unfold decodeBusop at h
  simp only at h
  split at h <;> cases h <;> rfl

/-- The CPU goes on to its next request unless the one performed has faulted (R180, R411). -/
def cpuGoesOn (o : Host.Outcome State Fault Refusal) : Host.Outcome State Fault Refusal :=
  match o with
  | .next t => .next (if t.fault = none then cpuAdvance t else t)
  | .fault f => .fault f
  | .refused r => .refused r

/-- A bus operation of the CPU is its row, and then the CPU goes on (R197). -/
theorem performOp_cpuAdvance {i : Instr} {s : State} (hi : isBusop i = true) (live : Live s) :
    ((performOp i s).bind fun _ t => .ok () (cpuAdvance t)).outcome = cpuGoesOn (exec i s) := by
  have ends := performOp_requests i s
  rw [exec_of_isBusop hi, unlessFaulted_live live]
  cases hr : performOp i s with
  | ok a t =>
    rw [hr] at ends
    simp [Run.bind, Run.outcome, cpuGoesOn, ends.1, live]
  | raised t =>
    rw [hr] at ends
    obtain ⟨f, hf, -⟩ := ends
    simp [Run.bind, Run.outcome, cpuGoesOn, hf]
  | stuck f => rfl
  | refused f => rfl

/-- A granted step is the row of the request the CPU presents once it has sampled its interrupts (R197, R423). -/
theorem exec_stepOnce_request {i : Instr} {s : State} (hb : brokenInvariant s = none) (hg : granted s = true)
    (hd : decodeBusop ((presented (takeInterrupt s)).word.setWidth 64) = .ok i) :
    exec .stepOnce s = cpuGoesOn (exec i (takeInterrupt s)) := by
  have live : Live (takeInterrupt s) := (takeInterrupt_fault s).trans ((granted_iff s).1 hg).1
  rw [exec_stepOnce_of_granted hb hg, performNext, hd]
  exact performOp_cpuAdvance (isBusop_of_decodeBusop hd) live

theorem cpuGoesOn_next {t : State} (live : Live t) : cpuGoesOn (.next t) = .next (cpuAdvance t) := by
  simp [cpuGoesOn, live]

/-- A request that goes on is its row on the state it started from (R197, R411). -/
theorem performOp_of_exec {i : Instr} {s t : State} (hi : isBusop i = true) (live : Live s) (liveNext : Live t)
    (ht : exec i s = .next t) : performOp i s = .ok () t := by
  have ends := performOp_requests i s
  rw [exec_of_isBusop hi, unlessFaulted_live live] at ht
  rcases Run.outcome_next ht with hr | hr
  · exact hr
  · rw [hr] at ends
    obtain ⟨f, hf, -⟩ := ends
    exact absurd (hf.symm.trans liveNext) (by simp)

/-- With no request given, a granted step off a boundary is the row of the engine's request, and the engine goes on with
the byte returned (R180, R197). -/
theorem exec_stepOnce_engine {i : Instr} {e : Engine} {s t : State} (hb : brokenInvariant s = none)
    (hg : granted s = true) (hp : s.port = []) (hs : s.cpuScript = []) (he : s.cpuEngine = e)
    (hk : wordKind (engineRequest e).word ≠ 0) (hd : decodeBusop ((engineRequest e).word.setWidth 64) = .ok i)
    (live : Live t) (ht : exec i s = .next t) :
    exec .stepOnce s = .next { t with cpuEngine := engineNext t.cpuByte e } := by
  have request : presented s = engineRequest e := he ▸ presented_engine hp hs
  have same : takeInterrupt s = s := takeInterrupt_of_none (interruptTaken_of_kind (request ▸ hk))
  have done := performOp_of_exec (isBusop_of_decodeBusop hd) ((granted_iff s).1 hg).1 live ht
  have kept := performOp_requests i s
  rw [done] at kept
  obtain ⟨-, port, script, engine⟩ := kept
  rw [exec_stepOnce_request (i := i) hb hg (by rw [same, request]; exact hd), same, ht, cpuGoesOn_next live,
    cpuAdvance_of_engine (port.trans hp) (script.trans hs), engine, he]

/-! ### A store with another engine -/

/-- The state with another engine. -/
def withEngine (e : Engine) (s : State) : State := { s with cpuEngine := e }

/-- No register write reads the engine (R225 to R254). -/
theorem blockWrite_withEngine (e : Engine) (a : Addr) (v : Byte) (r : Reg) (s : State) :
    blockWrite a v r (withEngine e s) = withEngine e (blockWrite a v r s) := by
  cases r with
  | port p =>
    cases p
    case nmitimen =>
      have mode : irqMode { withEngine e s with nmitimen := v } = irqMode { s with nmitimen := v } := rfl
      simp only [blockWrite, writeNmitimen, mode]
      split <;> rfl
    case wrio =>
      have bit : (withEngine e s).wrio = s.wrio := rfl
      simp only [blockWrite, writeWrio, bit]
      split <;> rfl
    case mdmaen =>
      have phase : (withEngine e s).gdmaPhase = s.gdmaPhase := rfl
      simp only [blockWrite, writeMdmaen, gdmaArm, phase]
      split <;> rfl
    all_goals rfl
  | chan c r => cases r <;> rfl
  | tail low => rfl

/-- A write that raises no fault does not read the engine (R95). -/
theorem memWrite_withEngine {a : Addr} {v : Byte} {s t : State} (e : Engine) (h : memWrite a v s = .ok () t) :
    memWrite a v (withEngine e s) = .ok () (withEngine e t) := by
  unfold memWrite at *
  have driven : driveBus v (withEngine e s) = withEngine e (driveBus v s) := rfl
  rw [driven]
  generalize driveBus v s = u at h ⊢
  cases hw : windowReg a with
  | some r =>
    rw [hw] at h
    cases h
    exact congrArg (Run.ok ()) (blockWrite_withEngine e a v r u)
  | none =>
    rw [hw] at h
    have region : regionKind (withEngine e u) a = regionKind u a := rfl
    simp only [routerMemWrite, routerWrite, region] at *
    cases hk : regionKind u a with
    | none => rw [hk] at h; cases h; rfl
    | some k =>
      rw [hk] at h
      cases k with
      | chip => cases h
      | device =>
        have router : (withEngine e u).routerState = u.routerState := rfl
        simp only [router] at *
        cases hr : Config.routerWrite u.routerState a v with
        | fatalChip => rw [hr] at h; cases h
        | done | unmapped => rw [hr] at h; cases h; rfl
      | ram | rom | writeOnly => cases h; rfl

/-- A MEMORY_STORE that raises no fault does not read the engine (R187). -/
theorem exec_memoryStore_withEngine {a : Addr} {v : Byte} {s t : State} (e : Engine) (live : Live s)
    (liveNext : Live t) (h : exec (.memoryStore a v) s = .next t) :
    exec (.memoryStore a v) (withEngine e s) = .next (withEngine e t) := by
  have done : cpuWrite a v s = .ok () t := performOp_of_exec rfl live liveNext h
  have liveEngine : Live (withEngine e s) := live
  rw [exec_of_isBusop rfl, unlessFaulted_live liveEngine]
  show (cpuWrite a v (withEngine e s)).outcome = _
  unfold cpuWrite at *
  cases hw : memWrite a v s with
  | ok x u =>
    rw [hw] at done
    rw [memWrite_withEngine e hw]
    cases done
    rfl
  | raised u | stuck u | refused u => rw [hw] at done; cases done

/-- With no request given, the engine goes on from where it has been put (R180). -/
theorem cpuAdvance_withEngine (e : Engine) {s : State} (hp : s.port = []) (hs : s.cpuScript = []) :
    cpuAdvance (withEngine e s) = withEngine (engineNext s.cpuByte e) s := cpuAdvance_of_engine hp hs

/-! ### An interrupt's service -/

/-- The bytes a service pushes, in their order: the bank in native mode, the PC, high byte first, the status (R424;
log 32). -/
def servicePushes (v : Service) : List Byte :=
  (if v.nativeMode = true then [v.pc.extractLsb' 16 8] else []) ++ [v.pc.extractLsb' 8 8, v.pc.extractLsb' 0 8] ++
    [Config.cpuStatus v.code]

/-- A service pushes `servicePushes`, at least two bytes. -/
theorem startPushes_eq (v : Service) :
    ∃ value value' rest, servicePushes v = value :: value' :: rest ∧ startPushes v = .push v value (value' :: rest) := by
  unfold servicePushes startPushes
  cases v.nativeMode
  · exact ⟨_, _, _, rfl, rfl⟩
  · exact ⟨_, _, _, rfl, rfl⟩

/-- The engine takes the interrupt in place of the FETCH at its boundary (R423, R424). -/
theorem takeInterrupt_boundary {s : State} {v : Service} (hp : s.port = []) (hs : s.cpuScript = [])
    (hk : interruptTaken s = some v.kind) (he : s.cpuEngine = .boundary v.code v.nativeMode v.mask v.pc) :
    takeInterrupt s = withEngine (startService v) s := by
  rw [takeInterrupt_of_engine hp hs hk, he]
  rfl

/-- The first step of an NMI's service is its NMI_ACK (R424, R418). -/
theorem exec_stepOnce_nmi {s : State} {v : Service} (hb : brokenInvariant s = none) (hp : s.port = [])
    (hs : s.cpuScript = []) (hv : v.kind = .nmi) (hk : interruptTaken s = some v.kind)
    (he : s.cpuEngine = .boundary v.code v.nativeMode v.mask v.pc) :
    exec .stepOnce s = .next { s with nmiRequest := false, cpuEngine := startPushes v } := by
  have hg := (interruptTaken_some hk).1
  have live : Live (withEngine (.acknowledge v) s) := ((granted_iff s).1 hg).1
  have taken : takeInterrupt s = withEngine (.acknowledge v) s := by
    rw [takeInterrupt_boundary hp hs hk he, startService, hv]
  have request : presented (withEngine (.acknowledge v) s) = engineRequest (.acknowledge v) := presented_engine hp hs
  have hd : decodeBusop ((presented (takeInterrupt s)).word.setWidth 64) = .ok .nmiAck := by
    rw [taken, request]
    exact (decode_busWord 0 0).2.2.2
  have ack : exec .nmiAck (withEngine (.acknowledge v) s) =
      .next (withEngine (.acknowledge v) { s with nmiRequest := false }) := unlessFaulted_live live _
  rw [exec_stepOnce_request hb hg hd, taken, ack, cpuGoesOn_next (by exact live)]
  exact congrArg Host.Outcome.next (cpuAdvance_withEngine (.acknowledge v) hp hs)

/-- The first step of an IRQ's service is its first push (R424). -/
theorem exec_stepOnce_irq {s t : State} {v : Service} {value value' : Byte} {rest : List Byte}
    (hb : brokenInvariant s = none) (hp : s.port = []) (hs : s.cpuScript = []) (hv : v.kind = .irq)
    (hk : interruptTaken s = some v.kind) (he : s.cpuEngine = .boundary v.code v.nativeMode v.mask v.pc)
    (pushes : startPushes v = .push v value (value' :: rest)) (live : Live t)
    (ht : exec (.memoryStore (Config.cpuPushAddr v.code (value' :: rest).length) value) s = .next t) :
    exec .stepOnce s = .next { t with cpuEngine := .push v value' rest } := by
  have hg := (interruptTaken_some hk).1
  have liveStart := ((granted_iff s).1 hg).1
  have taken : takeInterrupt s = withEngine (.push v value (value' :: rest)) s := by
    rw [takeInterrupt_boundary hp hs hk he, startService, hv, ← pushes]
  have request : presented (withEngine (.push v value (value' :: rest)) s) =
      engineRequest (.push v value (value' :: rest)) := presented_engine hp hs
  have hd : decodeBusop ((presented (takeInterrupt s)).word.setWidth 64) =
      .ok (.memoryStore (Config.cpuPushAddr v.code (value' :: rest).length) value) := by
    rw [taken, request]
    exact (decode_busWord _ _).2.2.1
  have kept := performOp_requests (.memoryStore (Config.cpuPushAddr v.code (value' :: rest).length) value) s
  rw [performOp_of_exec rfl liveStart live ht] at kept
  obtain ⟨-, port, script, -⟩ := kept
  have stored := exec_memoryStore_withEngine (.push v value (value' :: rest)) liveStart live ht
  rw [exec_stepOnce_request hb hg hd, taken, stored, cpuGoesOn_next (by exact live),
    cpuAdvance_withEngine _ (port.trans hp) (script.trans hs)]
  rfl

/-- The steps of a service after its first: the pushes, the loads of the vector, low byte first, and the handler's FETCH
to come (R424, R425; log 32). -/
theorem exec_stepOnce_service {s t : State} {v : Service} (hb : brokenInvariant s = none) (hg : granted s = true)
    (hp : s.port = []) (hs : s.cpuScript = []) (live : Live t) :
    (∀ value rest, s.cpuEngine = .push v value rest →
      exec (.memoryStore (Config.cpuPushAddr v.code rest.length) value) s = .next t →
      exec .stepOnce s = .next { t with cpuEngine := engineNext t.cpuByte (.push v value rest) }) ∧
    (s.cpuEngine = .serviceLow v →
      exec (.memoryLoad (0x00#8 ++ interruptVector v.nativeMode v.kind)) s = .next t →
      exec .stepOnce s = .next { t with cpuEngine := engineNext t.cpuByte (.serviceLow v) }) ∧
    (∀ low, s.cpuEngine = .serviceHigh v low →
      exec (.memoryLoad (0x00#8 ++ (interruptVector v.nativeMode v.kind + 1))) s = .next t →
      exec .stepOnce s = .next { t with cpuEngine := engineNext t.cpuByte (.serviceHigh v low) }) := by
  have offBoundary (kind : BitVec 4) (a : Addr) (b : Byte) (h : kind ≠ 0) : wordKind (busWord kind a b) ≠ 0 := by
    rwa [wordKind_busWord]
  refine ⟨fun value rest he ht => ?_, fun he ht => ?_, fun low he ht => ?_⟩
  · exact exec_stepOnce_engine hb hg hp hs he (offBoundary _ _ _ (by decide)) (decode_busWord _ _).2.2.1 live ht
  · exact exec_stepOnce_engine hb hg hp hs he (offBoundary _ _ _ (by decide)) (decode_busWord _ _).2.1 live ht
  · exact exec_stepOnce_engine hb hg hp hs he (offBoundary _ _ _ (by decide)) (decode_busWord _ _).2.1 live ht

/-- Past its boundary the engine is at one again exactly after a HALT, with its mask (R438; log 32). -/
theorem cpuAdvance_running {s : State} {code : Nat} (hp : s.port = []) (hs : s.cpuScript = [])
    (he : s.cpuEngine = .running code) :
    ∃ code' native pc, cpuAdvance s = { s with
      cpuEngine := if wordKind (presented s).word = 6 then .boundary code' native (presented s).irqDisable pc
        else .running code' } := by
  refine ⟨Config.cpuNext code s.cpuByte, Config.cpuNative (Config.cpuNext code s.cpuByte),
    Config.cpuResume (Config.cpuNext code s.cpuByte), ?_⟩
  rw [cpuAdvance_of_engine hp hs, presented_engine hp hs, he]
  rfl

/-- Settles O33: the edge and the sampling read off their definitions; a step where an interrupt is taken is the row of
the first request of its service, and the engine goes through the rest. -/
theorem interruptLines : Obligations.InterruptLines := by
  refine ⟨fun s => ?_, fun s => ⟨interruptTaken_nmi_iff s, interruptTaken_irq_iff s⟩, fun s k hb hp hs hk => ?_,
    fun s code k hp hs he => ?_, fun s v hb hp hs hk he => ?_, fun s t v hb hg hp hs live => ?_, fun s hp hs => ⟨?_, ?_⟩⟩
  · refine ⟨?_, ?_, rfl⟩
    · simp [nmiEdgeEval, nmiEnable, and_assoc]
    · simp [nmiEdgeEval, nmiEnable]
  · have hg := (interruptTaken_some hk).1
    have taken : takeInterrupt s = withEngine (engineService k s.cpuEngine) s := takeInterrupt_of_engine hp hs hk
    intro u
    have start : takeInterrupt s = u := taken
    clear_value u
    cases hd : decodeBusop ((presented u).word.setWidth 64) with
    | error e => rw [exec_stepOnce_of_granted hb hg, performNext, start, hd]; rfl
    | ok i =>
      rw [exec_stepOnce_request (i := i) hb hg (start ▸ hd), start]
      dsimp only
      cases exec i u <;> rfl
  · rw [presented_engine hp hs, he]
    rfl
  · obtain ⟨value, value', rest, bytes, pushes⟩ := startPushes_eq v
    refine ⟨value, value' :: rest, bytes, fun hv => ?_, fun hv t ht live => ⟨value', rest, rfl, ?_⟩⟩
    · rw [exec_stepOnce_nmi hb hp hs hv hk he, pushes]
    · exact exec_stepOnce_irq hb hp hs hv hk he pushes live ht
  · intro vector
    have hv : interruptVector v.nativeMode v.kind = vector := by
      unfold vector
      cases v.nativeMode <;> cases v.kind <;> rfl
    obtain ⟨push, low, high⟩ := exec_stepOnce_service (v := v) hb hg hp hs live
    rw [hv] at low high
    refine ⟨fun value rest he ht => ?_, low, fun b he ht => ⟨_, high b he ht⟩⟩
    rw [push value rest he ht]
    cases rest <;> rfl
  · intro code native pc he taken
    have masked := ((interruptTaken_irq_iff s).1 taken).2.2.2
    rw [presented_engine hp hs, he] at masked
    cases masked
  · exact fun code he => cpuAdvance_running hp hs he

end Sys2Proof.Machine
end

section
/-! SUPPORT. An HDMA unit between plain memory on both sides: its cursor, the places of each of its bytes, and the state
byte after byte. -/

namespace Sys2Proof.Machine

/-! ### The cursor and the pointer -/

/-- A channel with its table cursor, or in indirect mode its data pointer, `k` bytes on, within its bank (R326,
R327). -/
def cursorAt (ch : Channel) (k : Nat) : Channel :=
  if indirect ch then { ch with das := ch.das + BitVec.ofNat 16 k } else { ch with a2a := ch.a2a + BitVec.ofNat 16 k }

/-- The A-bus address of a channel's next data byte (R326, R327). -/
def dataAddr (ch : Channel) : Addr := if indirect ch then indirectAddr ch else tableAddr ch

theorem cursorAt_direct {ch : Channel} (h : indirect ch = false) (k : Nat) :
    cursorAt ch k = { ch with a2a := ch.a2a + BitVec.ofNat 16 k } := by simp [cursorAt, h]

theorem cursorAt_indirect {ch : Channel} (h : indirect ch = true) (k : Nat) :
    cursorAt ch k = { ch with das := ch.das + BitVec.ofNat 16 k } := by simp [cursorAt, h]

theorem dataAddr_direct {ch : Channel} (h : indirect ch = false) : dataAddr ch = tableAddr ch := by simp [dataAddr, h]

theorem dataAddr_indirect {ch : Channel} (h : indirect ch = true) : dataAddr ch = indirectAddr ch := by
  simp [dataAddr, h]

theorem cursorAt_zero (ch : Channel) : cursorAt ch 0 = ch := by
  simp [cursorAt]

/-- The control and the B-bus register of a transfer stay while its cursor moves (R128, R129). -/
theorem cursorAt_control (ch : Channel) (k : Nat) :
    (cursorAt ch k).dmap = ch.dmap ∧ (cursorAt ch k).bbad = ch.bbad ∧ (cursorAt ch k).written = ch.written := by
  unfold cursorAt
  split <;> exact ⟨rfl, rfl, rfl⟩

theorem indirect_cursorAt (ch : Channel) (k : Nat) : indirect (cursorAt ch k) = indirect ch := by
  simp [indirect, cursorAt_control]

theorem toABus_cursorAt (ch : Channel) (k : Nat) : toABus (cursorAt ch k) = toABus ch := by
  simp [toABus, cursorAt_control]

theorem unitAddr_cursorAt (ch : Channel) (k i : Nat) : unitAddr (cursorAt ch k) i = unitAddr ch i := by
  simp [unitAddr, patternOf, cursorAt_control]

/-- The cursor moves past one byte more. -/
theorem cursorAt_cursorAt_one (ch : Channel) (k : Nat) : cursorAt (cursorAt ch k) 1 = cursorAt ch (k + 1) := by
  cases h : indirect ch
  · rw [cursorAt_direct ((indirect_cursorAt ch k).trans h), cursorAt_direct h, cursorAt_direct h, BitVec.ofNat_add,
      ← BitVec.add_assoc]
  · rw [cursorAt_indirect ((indirect_cursorAt ch k).trans h), cursorAt_indirect h, cursorAt_indirect h, BitVec.ofNat_add,
      ← BitVec.add_assoc]

theorem dataAddr_cursorAt (ch : Channel) (k : Nat) :
    dataAddr (cursorAt ch k) =
      if indirect ch = true then ch.dasb ++ (ch.das + BitVec.ofNat 16 k)
      else ch.a1b ++ (ch.a2a + BitVec.ofNat 16 k) := by
  cases h : indirect ch
  · rw [dataAddr_direct ((indirect_cursorAt ch k).trans h), cursorAt_direct h]
    rfl
  · rw [dataAddr_indirect ((indirect_cursorAt ch k).trans h), cursorAt_indirect h]
    rfl

/-! ### The patterns -/

/-- The unit lengths of R129, as a list. -/
theorem unitLength_eq_getD {p : Nat} (hp : p < 8) : unitLength p = [1, 2, 2, 4, 4, 4, 2, 4].getD p 1 := by
  decide +revert

/-- The offsets of R129 that the block uses, as a list. -/
theorem unitOffsets_eq_getD {p : Nat} (hp : p < 8) (h4 : p ≠ 4) (h5 : p ≠ 5) :
    unitOffsets p = [[0], [0, 1], [0, 0], [0, 0, 1, 1], [], [], [0, 0], [0, 0, 1, 1]].getD p [] := by
  decide +revert

theorem patternOf_lt (ch : Channel) : patternOf ch < 8 := BitVec.isLt _

theorem patternFaults_iff (ch : Channel) : patternFaults ch = true ↔ patternOf ch = 4 ∨ patternOf ch = 5 := by
  simp [patternFaults]

/-- Byte `i` of the first unit (R129). -/
theorem unitAddr_of_lt {ch : Channel} {i : Nat} (hi : i < unitLength (patternOf ch)) :
    unitAddr ch i = ch.bbad + BitVec.ofNat 8 ((unitOffsets (patternOf ch)).getD i 0) := by
  rw [unitAddr, Nat.mod_eq_of_lt hi]

/-- `$00:2100 + b` (R94). -/
theorem bBusAddr_eq_append (b : Byte) : bBusAddr b = 0x0021#16 ++ b := by
  rw [show (0x0021#16) = 0x00#8 ++ 0x21#8 from rfl, BitVec.append_assoc]
  rfl

/-! ### Byte after byte -/

/-- The B-bus address of byte `k` of a unit (R94, R129). -/
def unitB (ch : Channel) (k : Nat) : Addr := bBusAddr (unitAddr ch k)

/-- The A-bus address of byte `k` of a unit (R326, R327). -/
def unitA (ch : Channel) (k : Nat) : Addr := dataAddr (cursorAt ch k)

/-- The place byte `k` of a unit is read from (R297). -/
def unitSrc (s : State) (ch : Channel) (k : Nat) : Nat := location s (if toABus ch then unitB ch k else unitA ch k)

/-- The place byte `k` of a unit is written to (R297). -/
def unitDst (s : State) (ch : Channel) (k : Nat) : Nat := location s (if toABus ch then unitA ch k else unitB ch k)

/-- Both sides of byte `k` of a unit are plain memory. -/
abbrev UnitPlain (s : State) (ch : Channel) (k : Nat) : Prop :=
  dmaRegWindow (unitA ch k) = false ∧ windowReg (unitB ch k) = none ∧
    regionKind s (unitA ch k) = some .ram ∧ regionKind s (unitB ch k) = some .ram

/-- The registers an indirect unit needs have been written (R47, R325, R466; log 31). -/
abbrev PointerWritten (ch : Channel) : Prop := indirect ch = true → firstUnwritten ch [7, 5, 6] = none

theorem firstUnwritten_cons_unwritten {ch : Channel} {r : Nat} (h : isWritten ch r = false) (rs : List Nat) :
    firstUnwritten ch (r :: rs) = some r := by simp [firstUnwritten, h]

theorem firstUnwritten_cons_written {ch : Channel} {r : Nat} (h : isWritten ch r = true) (rs : List Nat) :
    firstUnwritten ch (r :: rs) = firstUnwritten ch rs := by simp [firstUnwritten, h]

/-- The data address of a channel whose pointer, if it needs one, has been written (R325 to R327). -/
theorem hdmaDataAddr_eq {c : Chan} {s : State} (h : PointerWritten (channel s c)) :
    hdmaDataAddr c s = .ok (dataAddr (channel s c)) (setChannel c (cursorAt (channel s c) 1) s) := by
  cases hi : indirect (channel s c)
  · rw [dataAddr_direct hi, cursorAt_direct hi]
    simp [hdmaDataAddr, hi]
  · rw [dataAddr_indirect hi, cursorAt_indirect hi]
    simp [hdmaDataAddr, hi, h hi]

/-- One byte of a unit between plain memory on both sides (R325). -/
theorem hdmaByte_plain {c : Chan} {i : Nat} {s : State} (hw : PointerWritten (channel s c))
    (ha : dmaRegWindow (dataAddr (channel s c)) = false) (hb : windowReg (unitB (channel s c) i) = none)
    (hra : regionKind s (dataAddr (channel s c)) = some .ram) (hrb : regionKind s (unitB (channel s c) i) = some .ram) :
    hdmaByte c i s = .ok () (copyByte
      (location s (if toABus (channel s c) then unitB (channel s c) i else dataAddr (channel s c)))
      (location s (if toABus (channel s c) then dataAddr (channel s c) else unitB (channel s c) i))
      (setChannel c (cursorAt (channel s c) 1) s)) := by
  simp only [hdmaByte, hdmaDataAddr_eq hw, Run.bind, ha, Bool.false_eq_true, if_false, channel_setChannel_same]
  rw [moveByte_ram ha hb ((regionKind_setChannel _ _ _ _).trans hra) ((regionKind_setChannel _ _ _ _).trans hrb),
    toABus_cursorAt]
  simp only [location_setChannel]
  rfl

/-- The state once the first `k` bytes of the unit of channel `c` have moved (R325). -/
def afterBytes (c : Chan) (s : State) : Nat → State
  | 0 => s
  | k + 1 => copyByte (unitSrc s (channel s c) k) (unitDst s (channel s c) k)
      (setChannel c (cursorAt (channel s c) (k + 1)) (afterBytes c s k))

theorem channel_afterBytes (c : Chan) (s : State) (k : Nat) :
    channel (afterBytes c s k) c = cursorAt (channel s c) k := by
  cases k with
  | zero => exact (cursorAt_zero _).symm
  | succ k => exact channel_setChannel_same c _ (afterBytes c s k)

theorem channel_afterBytes_other {c d : Chan} (h : d ≠ c) (s : State) (k : Nat) :
    channel (afterBytes c s k) d = channel s d := by
  induction k with
  | zero => rfl
  | succ k ih => exact (channel_setChannel_other _ (afterBytes c s k) h).trans ih

/-- The bytes of a unit are copied one after the other (R325). -/
theorem mem_afterBytes (c : Chan) (s : State) (k : Nat) :
    (afterBytes c s k).mem = (List.range k).foldl (fun m k =>
      writeByte (unitDst s (channel s c) k) (readByte m (unitSrc s (channel s c) k)) m) s.mem := by
  induction k with
  | zero => rfl
  | succ k ih =>
    rw [List.range_succ, List.foldl_append, ← ih]
    rfl

theorem memoryWf_afterBytes {c : Chan} {s : State} (h : MemoryWf s.mem) (k : Nat) :
    MemoryWf (afterBytes c s k).mem := by
  induction k with
  | zero => exact h
  | succ k ih => exact ih.writeByte (location_lt _ _) _

/-- The byte left on the bus is the one written last (R110). -/
theorem openBus_afterBytes {c : Chan} {s : State} (h : MemoryWf s.mem) (k : Nat) :
    (afterBytes c s (k + 1)).openBus = readByte (afterBytes c s (k + 1)).mem (unitDst s (channel s c) k) :=
  (readByte_writeByte_same _ _ _ (memoryWf_afterBytes h k).1).symm

/-- A unit changes memory, the bus and its channel, and nothing else (R325). -/
theorem afterBytes_frame (c : Chan) (s : State) (k : Nat) :
    { afterBytes c s k with mem := s.mem, openBus := s.openBus, channels := s.channels } = s := by
  induction k with
  | zero => rfl
  | succ k ih => exact ih

theorem regions_afterBytes (c : Chan) (s : State) (k : Nat) : (afterBytes c s k).regions = s.regions := by
  have e := congrArg State.regions (afterBytes_frame c s k)
  exact e

theorem findRegion_congr {s t : State} (h : t.regions = s.regions) (a : Addr) : findRegion t a = findRegion s a := by
  simp [findRegion, h]

theorem location_congr {s t : State} (h : t.regions = s.regions) (a : Addr) : location t a = location s a := by
  simp [location, findRegion_congr h]

theorem regionKind_congr {s t : State} (h : t.regions = s.regions) (a : Addr) : regionKind t a = regionKind s a := by
  simp [regionKind, findRegion_congr h]

/-- Byte `k` of a unit follows the bytes before it. -/
theorem hdmaByte_afterBytes {c : Chan} {s : State} {k : Nat} (hw : PointerWritten (channel s c))
    (plain : UnitPlain s (channel s c) k) : hdmaByte c k (afterBytes c s k) = .ok () (afterBytes c s (k + 1)) := by
  obtain ⟨ha, hb, hra, hrb⟩ := plain
  have regions := regions_afterBytes c s k
  have here := channel_afterBytes c s k
  have unitB_here : unitB (channel (afterBytes c s k) c) k = unitB (channel s c) k := by
    rw [here, unitB, unitAddr_cursorAt]; rfl
  have dataAddr_here : dataAddr (channel (afterBytes c s k) c) = unitA (channel s c) k := by rw [here]; rfl
  have written : PointerWritten (channel (afterBytes c s k) c) := by
    rw [here]
    intro hi
    have first := hw ((indirect_cursorAt _ _).symm.trans hi)
    simpa [firstUnwritten, isWritten, cursorAt_control] using first
  rw [hdmaByte_plain written (by rwa [dataAddr_here]) (by rwa [unitB_here])
    (by rw [dataAddr_here, regionKind_congr regions]; exact hra) (by rw [unitB_here, regionKind_congr regions]; exact hrb)]
  simp only [unitB_here, dataAddr_here, location_congr regions]
  rw [here, toABus_cursorAt, cursorAt_cursorAt_one]
  rfl

/-- The bytes of a unit (R325). -/
theorem hdmaBytes_afterBytes {c : Chan} {s : State} (hw : PointerWritten (channel s c)) (n : Nat) :
    ∀ i, (∀ k < i + n, UnitPlain s (channel s c) k) →
      hdmaBytes c i n (afterBytes c s i) = .ok () (afterBytes c s (i + n)) := by
  induction n with
  | zero => exact fun i _ => rfl
  | succ n ih =>
    intro i plain
    rw [hdmaBytes, hdmaByte_afterBytes hw (plain i (by omega))]
    have rest := ih (i + 1) fun k hk => plain k (by omega)
    rwa [Nat.add_right_comm] at rest

/-! ### The unit -/

/-- A unit of a pattern the block implements, between plain memory on both sides (R325). -/
theorem hdmaUnit_plain {c : Chan} {s : State} (hb : isWritten (channel s c) 1 = true)
    (hp : patternFaults (channel s c) = false) (hw : PointerWritten (channel s c))
    (plain : ∀ k < unitLength (patternOf (channel s c)), UnitPlain s (channel s c) k) :
    hdmaUnit c s = .ok (unitLength (patternOf (channel s c)) * s.cfg.hdmaByte)
      (afterBytes c s (unitLength (patternOf (channel s c)))) := by
  have bytes := hdmaBytes_afterBytes hw (unitLength (patternOf (channel s c))) 0 (by simpa using plain)
  rw [Nat.zero_add, afterBytes] at bytes
  simp only [hdmaUnit, hb, hp, Bool.not_true, Bool.false_eq_true, if_false, bytes]
  rfl

/-- A unit moves at least one byte (R129). -/
theorem unitLength_pos (p : Nat) : 0 < unitLength p := by
  unfold unitLength
  split <;> decide

/-- A unit without its B-bus register is refused before anything else (R325). -/
theorem hdmaUnit_unwritten {c : Chan} {s : State} (hb : isWritten (channel s c) 1 = false) :
    hdmaUnit c s = .refused (.unwritten c 1) := by simp [hdmaUnit, hb]

/-- A unit of an unimplemented pattern faults (R333). -/
theorem hdmaUnit_faults {c : Chan} {s : State} (hb : isWritten (channel s c) 1 = true)
    (hp : patternFaults (channel s c) = true) :
    hdmaUnit c s = raiseFault .dmaPattern (.pattern c (patternOf (channel s c))) s := by simp [hdmaUnit, hb, hp]

/-- An indirect unit without its pointer is refused at its first byte (R325, R466; log 31). -/
theorem hdmaUnit_refused {c : Chan} {s : State} {r : Nat} (hb : isWritten (channel s c) 1 = true)
    (hp : patternFaults (channel s c) = false) (hi : indirect (channel s c) = true)
    (hr : firstUnwritten (channel s c) [7, 5, 6] = some r) : hdmaUnit c s = .refused (.unwritten c r) := by
  obtain ⟨m, hm⟩ := Nat.exists_eq_succ_of_ne_zero (unitLength_pos (patternOf (channel s c))).ne'
  simp [hdmaUnit, hb, hp, hm, hdmaBytes, hdmaByte, hdmaDataAddr, hi, hr, Run.bind]

/-- Settles O48: the unit's bytes move one after the other, each as `hdmaByte_plain` has it, and what it needs and
lacks stops it at its first check. -/
theorem hdmaUnitMoves : Obligations.HdmaUnitMoves := by
  intro s c wf ch p n offsets a b src dst
  have length : unitLength (patternOf ch) = n := unitLength_eq_getD (patternOf_lt ch)
  refine ⟨fun hb => hdmaUnit_unwritten hb, fun hb => ?_⟩
  have works (h4 : p ≠ 4) (h5 : p ≠ 5) : patternFaults ch = false := by
    rw [Bool.eq_false_iff, Ne, patternFaults_iff, not_or]
    exact ⟨h4, h5⟩
  refine ⟨fun h4 h5 pointer plain => ?_, fun hp => ?_, fun h4 h5 hi => ?_⟩
  · have unitA_eq (k : Nat) : unitA ch k = a k := dataAddr_cursorAt ch k
    have unitB_eq (k : Nat) (hk : k < n) : unitB ch k = b k := by
      rw [unitB, bBusAddr_eq_append, unitAddr_of_lt (length ▸ hk), unitOffsets_eq_getD (patternOf_lt ch) h4 h5]
      rfl
    have src_eq (k : Nat) (hk : k < n) : unitSrc s ch k = src k := by rw [unitSrc, unitA_eq, unitB_eq k hk]; rfl
    have dst_eq (k : Nat) (hk : k < n) : unitDst s ch k = dst k := by rw [unitDst, unitA_eq, unitB_eq k hk]; rfl
    have written : PointerWritten ch := fun hi =>
      (firstUnwritten_cons_written (pointer hi 7 (by simp)) _).trans ((firstUnwritten_cons_written
        (pointer hi 5 (by simp)) _).trans (firstUnwritten_cons_written (pointer hi 6 (by simp)) _))
    have unit := hdmaUnit_plain (c := c) hb (works h4 h5) written fun k hk => by
      rw [UnitPlain, unitA_eq, unitB_eq k (length ▸ hk)]
      exact plain k (length ▸ hk)
    rw [show unitLength (patternOf (channel s c)) = n from length] at unit
    have last : ∃ m, n = m + 1 := Nat.exists_eq_succ_of_ne_zero (length ▸ unitLength_pos (patternOf ch)).ne'
    refine ⟨_, unit, ?_, ?_, channel_afterBytes c s n, fun d hd => channel_afterBytes_other hd s n, afterBytes_frame c s n⟩
    · rw [mem_afterBytes]
      refine List.foldl_ext _ _ _ fun m k hk => ?_
      rw [src_eq k (List.mem_range.1 hk), dst_eq k (List.mem_range.1 hk)]
    · obtain ⟨m, hm⟩ := last
      rw [hm, openBus_afterBytes wf m, Nat.add_sub_cancel, ← dst_eq m (by omega)]
  · exact hdmaUnit_faults hb ((patternFaults_iff ch).2 hp)
  · have refused {r : Nat} (hr : firstUnwritten ch [7, 5, 6] = some r) : hdmaUnit c s = .refused (.unwritten c r) :=
      hdmaUnit_refused hb (works h4 h5) hi hr
    refine ⟨fun h7 => refused ?_, fun w7 w5 => refused ?_, fun w7 w5 w6 => refused ?_⟩
    · exact firstUnwritten_cons_unwritten h7 _
    · exact (firstUnwritten_cons_written w7 _).trans (firstUnwritten_cons_unwritten w5 _)
    · exact (firstUnwritten_cons_written w7 _).trans
        ((firstUnwritten_cons_written w5 _).trans (firstUnwritten_cons_unwritten w6 _))

end Sys2Proof.Machine
end

section
/-! SUPPORT. The block window and the DMA register windows as offsets; what the router answers by the kind of the region;
and the CPU's read and store requests through the access they make. -/

namespace Sys2Proof.Machine

/-! ### Windows -/

/-- R92: the offsets that hold a place of the block window. -/
theorem regOfOffset_isSome_iff (o : Nat) :
    (regOfOffset o).isSome = true ↔
      o ∈ [0x2137, 0x213C, 0x213D, 0x213F, 0x4200, 0x4201, 0x4210, 0x4211, 0x4212] ∨
        (0x4207 ≤ o ∧ o ≤ 0x420D) ∨ (0x4218 ≤ o ∧ o ≤ 0x421F) ∨ (0x4300 ≤ o ∧ o ≤ 0x43FF) := by
  have number (n : Fin 16) : (chanRegs.find? fun r => r.number == n.val).isSome = true := by revert n; decide
  have ports : (portRegs.find? fun p => p.offset == o).isSome = true ↔
      o ∈ [0x2137, 0x213C, 0x213D, 0x213F, 0x4200, 0x4201, 0x4210, 0x4211, 0x4212] ∨
        (0x4207 ≤ o ∧ o ≤ 0x420D) ∨ (0x4218 ≤ o ∧ o ≤ 0x421F) := by
    simp only [List.find?_isSome, portRegs, PortReg.offset, List.mem_cons, List.not_mem_nil, or_false, beq_iff_eq,
      exists_eq_or_imp, exists_eq_left]
    omega
  unfold regOfOffset
  split
  · simp only [Option.isSome_map, number ⟨o % 16, Nat.mod_lt _ (by decide)⟩, true_iff]
    omega
  · split
    · simp only [Option.isSome_some, true_iff]
      omega
    · have outside : ¬ (0x4300 ≤ o ∧ o ≤ 0x43FF) := by omega
      rw [Option.isSome_map, ports]
      simp only [outside, or_false]

/-- Settles O6: `windowReg` looks at bit 22 and at the offset alone, and its offsets are the places of the map. -/
theorem blockWindow : Obligations.BlockWindow := by
  refine ⟨fun a => ?_, fun a b ha hb ho => by rw [windowReg, windowReg, ha, hb, ho]⟩
  rw [← regOfOffset_isSome_iff, windowReg]
  cases a.getLsbD 22 <;> simp

/-- R103: the DMA register windows as offsets of the system banks. -/
theorem dmaRegWindow_iff (a : Addr) :
    dmaRegWindow a = true ↔ a.getLsbD 22 = false ∧
      ((0x2100 ≤ a.toNat % 2 ^ 16 ∧ a.toNat % 2 ^ 16 ≤ 0x21FF) ∨
        (0x4000 ≤ a.toNat % 2 ^ 16 ∧ a.toNat % 2 ^ 16 ≤ 0x43FF)) := by
  simp [dmaRegWindow]

/-! ### What the router answers -/

theorem routerRead_plain {a : Addr} {s : State} (h : regionKind s a = some .ram ∨ regionKind s a = some .rom) :
    routerRead a s = (.mapped (readByte s.mem (location s a)), s) := by
  rcases h with h | h <;> rw [routerRead, h]

theorem routerRead_device {a : Addr} {s : State} (h : regionKind s a = some .device) :
    routerRead a s = (Config.routerRead s.routerState a, deviceSeesRead a s) := by rw [routerRead, h]

theorem routerRead_nothing {a : Addr} {s : State} (h : regionKind s a = none ∨ regionKind s a = some .writeOnly) :
    routerRead a s = (.unmapped, s) := by
  rcases h with h | h <;> rw [routerRead, h]

theorem routerRead_chip {a : Addr} {s : State} (h : regionKind s a = some .chip) :
    routerRead a s = (.fatalChip, s) := by rw [routerRead, h]

theorem routerWrite_rom {a : Addr} {s : State} (v : Byte) (h : regionKind s a = some .rom) :
    routerWrite a v s = (.done, s) := by rw [routerWrite, h]

theorem routerWrite_device {a : Addr} {s : State} (v : Byte) (h : regionKind s a = some .device) :
    routerWrite a v s = (Config.routerWrite s.routerState a v, deviceSeesWrite a v s) := by rw [routerWrite, h]

theorem routerWrite_writeOnly {a : Addr} {s : State} (v : Byte) (h : regionKind s a = some .writeOnly) :
    routerWrite a v s = (.done, deviceSeesWrite a v s) := by rw [routerWrite, h]

theorem routerWrite_unmapped {a : Addr} {s : State} (v : Byte) (h : regionKind s a = none) :
    routerWrite a v s = (.unmapped, s) := by rw [routerWrite, h]

theorem routerWrite_chip {a : Addr} {s : State} (v : Byte) (h : regionKind s a = some .chip) :
    routerWrite a v s = (.fatalChip, s) := by rw [routerWrite, h]

/-! ### An access by where it goes -/

theorem memRead_window {a : Addr} {r : Reg} (s : State) (hw : windowReg a = some r) :
    memRead a s = .ok (blockRead r s).1 (driveBus (blockRead r s).1 (blockRead r s).2) := by rw [memRead, hw]

theorem memRead_mapped {a : Addr} {b : Byte} {s u : State} (hw : windowReg a = none)
    (h : routerRead a s = (.mapped b, u)) : memRead a s = .ok b (driveBus b u) := by
  rw [memRead, hw]; simp only [routerMemRead, h]

/-- R95: an unmapped address reads the byte on the bus. -/
theorem memRead_unmapped {a : Addr} {s u : State} (hw : windowReg a = none) (h : routerRead a s = (.unmapped, u)) :
    memRead a s = .ok u.openBus u := by
  rw [memRead, hw]; simp only [routerMemRead, h]

theorem memRead_chip {a : Addr} {s u : State} (hw : windowReg a = none) (h : routerRead a s = (.fatalChip, u)) :
    memRead a s = raiseFault .enhancementChip (.address a) u := by
  rw [memRead, hw]; simp only [routerMemRead, h]

theorem memWrite_window {a : Addr} {r : Reg} (v : Byte) (s : State) (hw : windowReg a = some r) :
    memWrite a v s = .ok () (blockWrite a v r (driveBus v s)) := by rw [memWrite, hw]

theorem memWrite_done {a : Addr} {v : Byte} {s u : State} (hw : windowReg a = none)
    (h : routerWrite a v (driveBus v s) = (.done, u)) : memWrite a v s = .ok () u := by
  rw [memWrite, hw]; simp only [routerMemWrite, h]

theorem memWrite_unmapped {a : Addr} {v : Byte} {s u : State} (hw : windowReg a = none)
    (h : routerWrite a v (driveBus v s) = (.unmapped, u)) : memWrite a v s = .ok () u := by
  rw [memWrite, hw]; simp only [routerMemWrite, h]

theorem memWrite_chip {a : Addr} {v : Byte} {s u : State} (hw : windowReg a = none)
    (h : routerWrite a v (driveBus v s) = (.fatalChip, u)) :
    memWrite a v s = raiseFault .enhancementChip (.address a) u := by
  rw [memWrite, hw]; simp only [routerMemWrite, h]

/-! ### The CPU's requests -/

/-- The three reads that give their byte to the CPU end in `loaded`, a DUMMY_READ in `dropped` (R183 to R185, R188). -/
abbrev ReadsEnd (a : Addr) (s : State) (loaded dropped : Host.Outcome State Fault Refusal) : Prop :=
  exec (.fetch a) s = loaded ∧ exec (.readOperand a) s = loaded ∧ exec (.memoryLoad a) s = loaded ∧
    exec (.dummyRead a) s = dropped

/-- In a live block the requests end as `cpuRead` and `dummyReadOp` do. -/
theorem ReadsEnd.of_outcome {a : Addr} {s : State} {loaded dropped : Host.Outcome State Fault Refusal} (live : Live s)
    (loads : (cpuRead a s).outcome = loaded) (drops : (dummyReadOp a s).outcome = dropped) :
    ReadsEnd a s loaded dropped :=
  ⟨(unlessFaulted_live live _).trans loads, (unlessFaulted_live live _).trans loads,
    (unlessFaulted_live live _).trans loads, (unlessFaulted_live live _).trans drops⟩

theorem readsEnd_of_ok {a : Addr} {b : Byte} {s u : State} (live : Live s) (h : memRead a s = .ok b u) :
    ReadsEnd a s (.next { u with ahead := u.ahead + waitState s a, cpuByte := b })
      (.next { u with ahead := u.ahead + waitState s a }) :=
  .of_outcome live (by rw [cpuRead, h]; rfl) (by rw [dummyReadOp, h]; rfl)

/-- A read that raises a fault charges nothing (R411). -/
theorem readsEnd_of_raised {a : Addr} {s u : State} (live : Live s) (h : memRead a s = .raised u) :
    ReadsEnd a s (.next u) (.next u) :=
  .of_outcome live (by rw [cpuRead, h]; rfl) (by rw [dummyReadOp, h]; rfl)

theorem exec_memoryStore_of_ok {a : Addr} {v : Byte} {s u : State} (live : Live s) (h : memWrite a v s = .ok () u) :
    exec (.memoryStore a v) s = .next { u with ahead := u.ahead + waitState s a } := by
  refine (unlessFaulted_live live _).trans ?_
  rw [memoryStoreOp, cpuWrite, h]; rfl

/-- A store that raises a fault charges nothing (R411). -/
theorem exec_memoryStore_of_raised {a : Addr} {v : Byte} {s u : State} (live : Live s)
    (h : memWrite a v s = .raised u) : exec (.memoryStore a v) s = .next u := by
  refine (unlessFaulted_live live _).trans ?_
  rw [memoryStoreOp, cpuWrite, h]; rfl

theorem blockRead_ahead (r : Reg) (s : State) : (blockRead r s).2.ahead = s.ahead := by
  have kept := congrArg State.ahead (blockRead_keeps r s).1.rest
  exact kept

theorem blockWrite_ahead (a : Addr) (v : Byte) (r : Reg) (s : State) : (blockWrite a v r s).ahead = s.ahead := by
  have kept := congrArg State.ahead (blockWrite_keeps a v r s).1.rest
  exact kept

/-- Settles O16: a request ends as the access it makes does, and that by the place it reaches and the router's
answer. -/
theorem cpuReads : Obligations.CpuReads := by
  refine ⟨fun s a r live hw => ?_, fun s a live hw => ⟨fun hk => ?_, fun hk => ?_, fun hk => ?_, fun hk => ?_⟩⟩
  · have reads := readsEnd_of_ok live (memRead_window s hw)
    rw [driveBus_ahead, blockRead_ahead] at reads
    exact reads
  · exact readsEnd_of_ok live (memRead_mapped hw (routerRead_plain hk))
  · have answer := routerRead_device hk
    cases hr : Config.routerRead s.routerState a with
    | mapped b => exact readsEnd_of_ok live (memRead_mapped hw (hr ▸ answer))
    | unmapped => exact readsEnd_of_ok live (memRead_unmapped hw (hr ▸ answer))
    | fatalChip => exact readsEnd_of_raised live (memRead_chip hw (hr ▸ answer))
  · exact readsEnd_of_ok live (memRead_unmapped hw (routerRead_nothing hk))
  · exact readsEnd_of_raised live (memRead_chip hw (routerRead_chip hk))

/-- Settles O17: a store ends as the access it makes does; to plain memory it is the write of one byte. -/
theorem cpuStores : Obligations.CpuStores := by
  refine ⟨fun s a v live wf hw hk => ?_, fun s a v live => ⟨fun r hw => ?_, fun hw =>
    ⟨fun hk => ?_, ⟨fun hk => ?_, fun hk => ?_⟩, fun hk => ?_⟩⟩⟩
  · exact ⟨_, exec_memoryStore_of_ok live (memWrite_ram v hw hk), readByte_writeByte_same _ v _ wf.1,
      fun x hx => readByte_writeByte_other v _ hx, wf.writeByte (location_lt s a) v, rfl, rfl, rfl⟩
  · have stores := exec_memoryStore_of_ok live (memWrite_window v s hw)
    rw [blockWrite_ahead, driveBus_ahead] at stores
    exact stores
  · rcases hk with hk | hk
    · exact exec_memoryStore_of_ok live (memWrite_unmapped hw (routerWrite_unmapped v hk))
    · exact exec_memoryStore_of_ok live (memWrite_done hw (routerWrite_rom v hk))
  · exact exec_memoryStore_of_ok live (memWrite_done hw (routerWrite_writeOnly v hk))
  · have answer : routerWrite a v (driveBus v s) = _ := routerWrite_device v hk
    rw [driveBus_routerState] at answer
    cases hr : Config.routerWrite s.routerState a v with
    | done => exact exec_memoryStore_of_ok live (memWrite_done hw (hr ▸ answer))
    | unmapped => exact exec_memoryStore_of_ok live (memWrite_unmapped hw (hr ▸ answer))
    | fatalChip => exact exec_memoryStore_of_raised live (memWrite_chip hw (hr ▸ answer))
  · exact exec_memoryStore_of_raised live (memWrite_chip hw (routerWrite_chip v hk))

end Sys2Proof.Machine
end

section
/-! SUPPORT. The rows of the block window's registers, and a channel register read back after a write. -/

namespace Sys2Proof.Machine

/-- Settles O22: the rows of a place of the window are its read and its write, presented alone (log 14). -/
theorem rowsAreRegisterAccesses : Obligations.RowsAreRegisterAccesses := by
  intro bank r s live
  constructor
  · rw [exec_readRow, mmioRead, unlessFaulted_live live]; rfl
  · rw [exec_writeRow, mmioWrite, unlessFaulted_live live]; rfl

/-! ### Writes of the channel registers -/

theorem writeChannelReg_eq {r : ChanReg} {k : Nat} (c : Chan) (v : Byte) (s : State) (hk : writtenIndex r = some k) :
    writeChannelReg r c v s = setChannel c (markWritten k (withChanByte (channel s c) v r)) s := by
  rw [writeChannelReg, hk]

/-- R241 to R252: a write row stores the byte on the bus in its register of its channel. -/
theorem exec_writeRow_channel {r : ChanReg} {k : Nat} {s : State} (bank : Byte) (c : Chan) (live : Live s)
    (hk : writtenIndex r = some k) :
    exec (writeRow bank (.chan c r)) s =
      .next (setChannel c (markWritten k (withChanByte (channel s c) s.openBus r)) s) := by
  rw [(rowsAreRegisterAccesses bank (.chan c r) s live).2, ← writeChannelReg_eq c s.openBus s hk]; rfl

/-- Settles O31: every row is the write row of its register, and `withChanByte` puts the byte in its half. -/
theorem channelWrites : Obligations.ChannelWrites := by
  intro bank c s live
  have write (r : ChanReg) {k : Nat} (hk : writtenIndex r = some k) := exec_writeRow_channel bank c live hk
  exact ⟨write .dmap rfl, write .bbad rfl, write .a1tl rfl, write .a1th rfl, write .a1b rfl, write .dasl rfl,
    write .dash rfl, write .dasb rfl, write .a2al rfl, write .a2ah rfl, write .ntrl rfl, write .unused rfl,
    write .unusedMirror rfl⟩

/-! ### Read after write -/

@[simp] theorem lowByte_withLow (h : Half) (v : Byte) : lowByte (withLow h v) = v :=
  BitVec.extractLsb'_append_eq_right

@[simp] theorem highByte_withHigh (h : Half) (v : Byte) : highByte (withHigh h v) = v :=
  BitVec.extractLsb'_append_eq_left

/-- A register byte just stored is the byte held (R97, R241 to R252). -/
theorem chanByte_withChanByte {r : ChanReg} (ch : Channel) (v : Byte) (hr : (writtenIndex r).isSome = true) :
    chanByte (withChanByte ch v r) r = v := by
  cases r with
  | gapC | gapD | gapE => cases hr
  | a1tl | dasl | a2al => exact lowByte_withLow _ v
  | a1th | dash | a2ah => exact highByte_withHigh _ v
  | _ => rfl

/-- The stored byte of a register is that of the register its index names (R47, R252). -/
theorem chanByte_of_index {r : ChanReg} {k : Nat} (ch : Channel) (hk : writtenIndex r = some k) :
    chanRegs[k]?.map (chanByte ch) = some (chanByte ch r) := by
  cases r <;> cases hk <;> rfl

/-- Two addresses of one register hold one byte: UNUSED has two (R252). -/
theorem chanByte_congr {q r : ChanReg} {k : Nat} (ch : Channel) (hq : writtenIndex q = some k)
    (hr : writtenIndex r = some k) : chanByte ch q = chanByte ch r :=
  Option.some.inj ((chanByte_of_index ch hq).symm.trans (chanByte_of_index ch hr))

theorem chanByte_markWritten (k : Nat) (ch : Channel) (r : ChanReg) :
    chanByte (markWritten k ch) r = chanByte ch r := by cases r <;> rfl

theorem writtenIndex_lt {r : ChanReg} {k : Nat} (hk : writtenIndex r = some k) : k < 12 := by
  cases r <;> cases hk <;> decide

theorem isWritten_markWritten {k : Nat} (ch : Channel) (hk : k < 12) : isWritten (markWritten k ch) k = true := by
  simp [isWritten, markWritten, hk]

/-- A MEMORY_STORE to a channel register stores its byte there, marked written (R187, R241 to R252). -/
theorem exec_memoryStore_channel {a : Addr} {c : Chan} {r : ChanReg} {k : Nat} {s : State} (v : Byte) (live : Live s)
    (ha : windowReg a = some (.chan c r)) (hk : writtenIndex r = some k) :
    exec (.memoryStore a v) s =
      .next { setChannel c (markWritten k (withChanByte (channel s c) v r)) (driveBus v s) with
        ahead := s.ahead + waitState s a } := by
  have write : blockWrite a v (.chan c r) (driveBus v s) =
      setChannel c (markWritten k (withChanByte (channel s c) v r)) (driveBus v s) := writeChannelReg_eq c v _ hk
  exact exec_memoryStore_of_ok live ((memWrite_window v s ha).trans (congrArg _ write))

/-- A MEMORY_LOAD of a channel register written since reset returns its byte (R47, R185). -/
theorem exec_memoryLoad_channel {a : Addr} {c : Chan} {r : ChanReg} {k : Nat} {s : State} (live : Live s)
    (ha : windowReg a = some (.chan c r)) (hk : writtenIndex r = some k) (hw : isWritten (channel s c) k = true) :
    exec (.memoryLoad a) s = .next { s with
      openBus := chanByte (channel s c) r, ahead := s.ahead + waitState s a, cpuByte := chanByte (channel s c) r } := by
  have read : blockRead (.chan c r) s = (chanByte (channel s c) r, s) := by
    simp only [blockRead, readChannelReg, hk, hw, if_true]
  have load := memRead_window s ha
  rw [read] at load
  exact (readsEnd_of_ok live load).2.2.1

/-- Settles O32: the store leaves the byte in the channel, marked written, and on the bus, where the load finds it. -/
theorem readAfterWrite : Obligations.ReadAfterWrite := by
  intro s t a b c r q v live hr hq ha hb stored
  obtain ⟨k, hk⟩ := Option.isSome_iff_exists.1 hr
  have hqk : writtenIndex q = some k := hq.trans hk
  rw [exec_memoryStore_channel v live ha hk] at stored
  obtain ⟨liveNext, held, bus⟩ :
      Live t ∧ channel t c = markWritten k (withChanByte (channel s c) v r) ∧ t.openBus = v := by
    cases stored; exact ⟨live, channel_setChannel_same c _ _, rfl⟩
  have written : isWritten (channel t c) k = true := by rw [held]; exact isWritten_markWritten _ (writtenIndex_lt hk)
  have byte : chanByte (channel t c) q = v := by
    rw [held, chanByte_congr _ hqk hk, chanByte_markWritten, chanByte_withChanByte _ v hr]
  rw [exec_memoryLoad_channel liveNext hb hqk written, byte, ← bus]

end Sys2Proof.Machine
end

section
/-! SUPPORT. Where a GDMA step stops, and the instructions that leave router memory alone. -/

namespace Sys2Proof.Machine

/-! ### A GDMA step that moves no byte -/

/-- R301, R302: a cancelled channel with none other enabled moves no byte, and the sequence ends. -/
theorem gdmaTransfer_noneEnabled (t0 : Nat) {s : State} (h : s.mdmaen = 0) :
    gdmaTransfer t0 s = .ok () { s with gdmaPhase := .idle, gdmaActive := false } := by
  have cancelled : s.mdmaen.getLsbD s.gdmaChannel.val = false := by rw [h]; exact BitVec.getLsbD_zero
  have noChannel : highestEnabled s.mdmaen = none := by rw [h]; rfl
  simp only [gdmaTransfer, cancelled, Bool.not_false, if_true, gdmaSelect, noChannel]

/-- R103: a byte in a register window is refused. -/
theorem gdmaTransfer_regWindow (t0 : Nat) {s : State} (h : s.mdmaen.getLsbD s.gdmaChannel.val = true)
    (hw : dmaRegWindow (gdmaAddr (channel s s.gdmaChannel)) = true) :
    gdmaTransfer t0 s = .refused (.dmaRegWindow s.gdmaChannel (gdmaAddr (channel s s.gdmaChannel))) := by
  simp [gdmaTransfer, h, hw]

/-- Settles O44: the step is `gdmaTransfer` or a fault at the event's own time, by the phase. -/
theorem gdmaStops : Obligations.GdmaStops := by
  refine ⟨fun s can => ?_, dmaRegWindow_iff⟩
  have transfer {r : Run Unit} (hp : s.gdmaPhase = .transfer)
      (hr : gdmaTransfer (event s .dma).when (setCurrent (some .dma) (deschedule .dma s)) = r) :
      exec .evDma s = (callbackDone r).outcome := by simp only [exec_evDma can, hp, hr]
  refine ⟨fun hp he hw => transfer hp (gdmaTransfer_regWindow _ he hw), fun hp he => transfer hp (gdmaTransfer_noneEnabled _ he),
    fun hp => ?_⟩
  have idle : exec .evDma s = (callbackDone
      (raiseFault .invariant .dmaWhileIdle (setCurrent (some .dma) (deschedule .dma s)))).outcome := by
    simp only [exec_evDma can, hp]
  exact idle

/-! ### Router memory -/

/-- A register read does not touch router memory (R221 to R254). -/
theorem blockRead_mem (r : Reg) (s : State) : (blockRead r s).2.mem = s.mem := by
  have joy (n : Fin 4) (high : Bool) : (readJoy n high s).2.mem = s.mem := by unfold readJoy; split <;> rfl
  cases r with
  | port p =>
    cases p
    case slhv => simp only [blockRead, readSlhv]; split <;> rfl
    case ophct => simp only [blockRead, readOphct]; split <;> rfl
    case opvct => simp only [blockRead, readOpvct]; split <;> rfl
    case joy1l | joy1h | joy2l | joy2h | joy3l | joy3h | joy4l | joy4h => exact joy _ _
    all_goals rfl
  | chan c r =>
    simp only [blockRead, readChannelReg]
    split
    · split <;> rfl
    · rfl
  | tail low => rfl

/-- A register write does not touch router memory (R225 to R254). -/
theorem blockWrite_mem (a : Addr) (v : Byte) (r : Reg) (s : State) : (blockWrite a v r s).mem = s.mem := by
  cases r with
  | port p =>
    cases p
    case nmitimen => simp only [blockWrite, writeNmitimen]; split <;> rfl
    case wrio => simp only [blockWrite, writeWrio]; split <;> rfl
    case mdmaen => simp only [blockWrite, writeMdmaen, gdmaArm]; split <;> rfl
    all_goals rfl
  | chan c r => simp only [blockWrite, writeChannelReg]; split <;> rfl
  | tail low => rfl

/-- Every end of a part of an operation has the memory it began with. -/
abbrev MemSat {α : Type} (s : State) (r : Run α) : Prop := Run.Sat (·.mem = s.mem) (·.mem = s.mem) r

theorem MemSat.next {s t : State} {r : Run Unit} (h : unlessFaulted s r = .next t) (hr : MemSat s r) : t.mem = s.mem := by
  rcases unlessFaulted_next h with rfl | ⟨-, h⟩
  · rfl
  · exact Run.Sat.of_next hr h

/-- A read of the A-bus does not touch router memory (R95). -/
theorem memRead_mem (a : Addr) (s : State) : MemSat s (memRead a s) := by
  cases hw : windowReg a with
  | some r => rw [memRead_window s hw]; exact blockRead_mem r s
  | none =>
    rw [memRead, hw]
    exact (routerMemRead_sat a s).mono (fun _ h => h.2.2) fun _ h => h.2.2

/-- R183 to R192: of the bus operations only a store touches router memory. -/
theorem performOp_mem {i : Instr} (s : State) (hi : ∀ a v, i ≠ .memoryStore a v) : MemSat s (performOp i s) := by
  have read (a : Addr) {k : Byte → State → Run Unit} (hk : ∀ b u, MemSat u (k b u)) : MemSat s ((memRead a s).bind k) :=
    (memRead_mem a s).bind (fun b u hu => (hk b u).mono (fun _ h => h.trans hu) fun _ h => h.trans hu) fun _ h => h
  cases i with
  | fetch a | readOperand a | memoryLoad a | dummyRead a => exact read a fun _ _ => rfl
  | memoryStore a v => exact absurd rfl (hi a v)
  | idle | halt | stop | nmiAck => exact rfl
  | _ => exact True.intro

/-- The callbacks that run no DMA do not touch router memory (R421, R196, R358). -/
theorem fireEvent_mem {e : EventId} (s : State) (hv : e ≠ .video) (hd : e ≠ .dma) : MemSat s (fireEvent e s) := by
  have callback : MemSat s (dispatch e (lateness s e) (setCurrent (some e) (deschedule e s))) := by
    unfold dispatch
    split
    · rfl
    · cases e with
      | irq => simp only [irqAssert]; split <;> rfl
      | stall | joy => rfl
      | video => exact absurd rfl hv
      | dma => exact absurd rfl hd
  unfold fireEvent
  generalize dispatch e _ _ = r at callback
  cases r <;> exact callback

theorem execSetKey_mem {bit : BitVec 4} {port : BitVec 1} {pressed : Bool} {s t : State}
    (h : execSetKey bit port pressed s = .next t) : t.mem = s.mem := by
  unfold execSetKey at h
  split at h
  · exact MemSat.next h rfl
  · cases h

/-- A command that runs neither a DMA nor the CPU does not touch router memory (R162 to R167, R394, R395). -/
theorem execCommand_mem {s t : State} :
    ∀ {i : Instr}, (rowOf i).format = .cmd → i ≠ .reset → (∀ n, i ≠ .advance n) → i ≠ .stepOnce → i ≠ .runFrame →
      i ≠ .runInstruction → exec i s = .next t → t.mem = s.mem
  | .schedule _ _, _, _, _, _, _, _, h | .reschedule _ _, _, _, _, _, _, _, h | .deschedule _, _, _, _, _, _, _, h
  | .scheduleAt _ _, _, _, _, _, _, _, h | .pause, _, _, _, _, _, _, h | .resume, _, _, _, _, _, _, h => MemSat.next h rfl
  | .anyEventDue, _, _, _, _, _, _, h | .isPaused, _, _, _, _, _, _, h => by cases h; rfl
  | .setKey _ _ _, _, _, _, _, _, _, h => execSetKey_mem h
  | .reset, _, hr, _, _, _, _, _ => absurd rfl hr
  | .advance n, _, _, ha, _, _, _, _ => absurd rfl (ha n)
  | .stepOnce, _, _, _, hs, _, _, _ => absurd rfl hs
  | .runFrame, _, _, _, _, hf, _, _ => absurd rfl hf
  | .runInstruction, _, _, _, _, _, hi, _ => absurd rfl hi

/-- Settles O60: by the kind of the instruction, the whole of router memory stays. -/
theorem memoryFrame : Obligations.MemoryFrame := by
  intro i s t notStore notReset notVideo notDma notAdvance notStep notFrame notInstruction h x
  suffices kept : t.mem = s.mem by rw [kept]
  cases instrKind i with
  | busop hb => exact MemSat.next (exec_of_isBusop hb s ▸ h) (performOp_mem s notStore)
  | read bank r =>
    rw [exec_readRow] at h
    exact MemSat.next h (blockRead_mem r s)
  | write bank r =>
    rw [exec_writeRow] at h
    exact MemSat.next h (blockWrite_mem _ _ r s)
  | command hc => exact execCommand_mem hc notReset notAdvance notStep notFrame notInstruction h
  | event e =>
    rw [exec_eventRow] at h
    exact MemSat.next h (fireEvent_mem s (fun he => notVideo (congrArg eventRow he)) fun he => notDma (congrArg eventRow he))

end Sys2Proof.Machine
end

section
/-! SUPPORT. Words and instructions: the fields of an encoded word, what the decoder makes of them, and the row of
opcode_table.json a decoded word matches. -/

namespace Sys2Proof.Machine

open Sys2Proof.Laws

/-! ### The decoder by format -/

theorem decode_busop {w : BitVec 64} (h : w.toNat < 2 ^ 36) : decode ⟨.busop, w⟩ = decodeBusop w :=
  if_neg (Nat.not_le.2 h)

theorem decode_mmio {w : BitVec 64} (h : w.toNat < 2 ^ 25) : decode ⟨.mmio, w⟩ = decodeMmio w :=
  if_neg (Nat.not_le.2 h)

theorem decode_cmd (w : BitVec 64) : decode ⟨.cmd, w⟩ = decodeCmd w := if_neg (Nat.not_le.2 w.isLt)

theorem decode_event {w : BitVec 64} (h : w.toNat < 2 ^ 4) : decode ⟨.event, w⟩ = decodeEvent w :=
  if_neg (Nat.not_le.2 h)

/-! ### Encoded bus operations -/

/-- The fields of an encoded BUSOP word (R121). -/
theorem bitField_busopWord {k : Nat} (hk : k < 16) (a : Addr) (v : Byte) :
    bitField (busopWord k a v).bits 32 4 = k ∧
    BitVec.ofNat 24 (bitField (busopWord k a v).bits 8 24) = a ∧
    BitVec.ofNat 8 (bitField (busopWord k a v).bits 0 8) = v := by
  have ha : a.toNat < 2 ^ 24 := a.isLt
  have hv : v.toNat < 2 ^ 8 := v.isLt
  refine ⟨?_, BitVec.eq_of_toNat_eq ?_, BitVec.eq_of_toNat_eq ?_⟩ <;>
    simp only [bitField, busopWord, BitVec.toNat_ofNat] <;> omega

theorem decode_busopWord {k : Nat} (hk : k < 16) (a : Addr) (v : Byte) :
    decode (busopWord k a v) = decodeBusop (busopWord k a v).bits := decode_busop (busopWord_fits hk a v).2

/-- R121, R122: a bus operation's word decodes to it. -/
theorem decode_encode_busop : ∀ {i : Instr}, isBusop i = true → decode (encode i) = .ok i
  | .fetch _, _ | .readOperand _, _ | .memoryLoad _, _ | .memoryStore _ _, _ | .dummyRead _, _ => by
    simp [encode, decode_busopWord, decodeBusop, bitField_busopWord]
  | .idle, _ | .halt, _ | .stop, _ | .nmiAck, _ => rfl

/-! ### Encoded accesses of the block window -/

/-- The row of an access to a place of the window (R123). -/
def windowInstr (write : Bool) (bank : Byte) (r : Reg) : Instr := if write then writeRow bank r else readRow bank r

theorem encode_windowInstr (write : Bool) (bank : Byte) (r : Reg) :
    encode (windowInstr write bank r) = mmioWord write bank r := by
  cases write <;> cases r with
  | port p => cases p <;> rfl
  | chan c r => cases r <;> rfl
  | tail low => rfl

theorem wellFormed_windowInstr (write : Bool) (bank : Byte) (r : Reg) :
    (windowInstr write bank r).wellFormed = systemBank bank := by
  cases write <;> cases r with
  | port p => cases p <;> rfl
  | chan c r => cases r <;> rfl
  | tail low => rfl

theorem toNat_mmioWord (write : Bool) (bank : Byte) (r : Reg) :
    (mmioWord write bank r).bits.toNat = write.toNat * 2 ^ 24 + bank.toNat * 2 ^ 16 + r.offset := by
  have hb : bank.toNat < 2 ^ 8 := bank.isLt
  have ho := offset_lt r
  have hw := write.toNat_le
  simp only [mmioWord, BitVec.toNat_ofNat]
  omega

/-- The fields of an encoded MMIO word (R123). -/
theorem bitField_mmioWord (write : Bool) (bank : Byte) (r : Reg) :
    bitField (mmioWord write bank r).bits 24 1 = write.toNat ∧
    bitField (mmioWord write bank r).bits 16 8 = bank.toNat ∧
    bitField (mmioWord write bank r).bits 0 16 = r.offset := by
  have hb : bank.toNat < 2 ^ 8 := bank.isLt
  have ho := offset_lt r
  have hw := write.toNat_le
  simp only [bitField, toNat_mmioWord]
  omega

/-- The place of the window an MMIO word reaches, by the word's fields (R91, R92, R123). -/
theorem windowReg_bitField {w : BitVec 64} {r : Reg} :
    windowReg (BitVec.ofNat 24 (bitField w 0 24)) = some r ↔
      systemBank (BitVec.ofNat 8 (bitField w 16 8)) = true ∧ bitField w 0 16 = r.offset := by
  have bank : (BitVec.ofNat 24 (bitField w 0 24)).getLsbD 22 = (BitVec.ofNat 8 (bitField w 16 8)).getLsbD 6 := by
    rw [BitVec.getLsbD_ofNat, BitVec.getLsbD_ofNat, bitField, bitField, Nat.testBit_mod_two_pow,
      Nat.testBit_mod_two_pow, Nat.testBit_div_two_pow, Nat.testBit_div_two_pow]
    simp
  have offset : (BitVec.ofNat 24 (bitField w 0 24)).toNat % 2 ^ 16 = bitField w 0 16 := by
    simp only [bitField, BitVec.toNat_ofNat]
    omega
  rw [windowReg_eq_some, bank, offset, systemBank, Bool.not_eq_true']

/-- R123: an MMIO word decodes to the row of the place of the window it reaches, if it reaches one. -/
theorem decodeMmio_eq_ok {w : BitVec 64} {i : Instr} :
    decodeMmio w = .ok i ↔ ∃ r, windowReg (BitVec.ofNat 24 (bitField w 0 24)) = some r ∧
      windowInstr (bitField w 24 1 == 1) (BitVec.ofNat 8 (bitField w 16 8)) r = i := by
  cases hr : windowReg (BitVec.ofNat 24 (bitField w 0 24)) with
  | none => simp [decodeMmio, hr]
  | some r => simp only [decodeMmio, hr, Except.ok.injEq, Option.some.injEq, exists_eq_left', windowInstr]

theorem decodeMmio_outside {w : BitVec 64} (h : windowReg (BitVec.ofNat 24 (bitField w 0 24)) = none) :
    decodeMmio w = .error (.outsideWindow (bitField w 24 1 == 1) (BitVec.ofNat 24 (bitField w 0 24))) := by
  simp only [decodeMmio, h]

/-- R123: the word of an access to a system bank decodes to its row. -/
theorem decode_encode_windowInstr {bank : Byte} (h : systemBank bank = true) (write : Bool) (r : Reg) :
    decode (encode (windowInstr write bank r)) = .ok (windowInstr write bank r) := by
  obtain ⟨direction, bankField, offset⟩ := bitField_mmioWord write bank r
  rw [encode_windowInstr]
  refine (decode_mmio (mmioWord_fits write bank r).2).trans (decodeMmio_eq_ok.2 ⟨r, windowReg_bitField.2 ?_, ?_⟩) <;>
    rw [bankField, BitVec.ofNat_toNat, BitVec.setWidth_eq]
  · exact ⟨h, offset⟩
  · rw [direction]
    cases write <;> rfl

/-! ### Encoded commands -/

theorem eventId_lt (e : EventId) : e.id < 16 := by cases e <;> decide

@[simp] theorem eventOfId_id (e : EventId) : eventOfId e.id = some e := by cases e <;> rfl

/-- The fields of an encoded CMD word (R126). -/
theorem bitField_cmdWord {op ev : Nat} (hop : op < 256) (hev : ev < 16) (arg : BitVec 48) :
    bitField (cmdWord op ev arg.toNat).bits 56 8 = op ∧ bitField (cmdWord op ev arg.toNat).bits 52 4 = ev ∧
    bitField (cmdWord op ev arg.toNat).bits 48 4 = 0 ∧ bitField (cmdWord op ev arg.toNat).bits 0 48 = arg.toNat := by
  simp only [bitField, cmdWord, BitVec.toNat_ofNat]
  omega

theorem decode_cmdWord (op ev arg : Nat) : decode (cmdWord op ev arg) = decodeCmd (cmdWord op ev arg).bits :=
  decode_cmd _

/-- R394: the word of each of the 48 settings of a key decodes to it. -/
theorem decode_encode_setKey (bit : BitVec 4) (port : BitVec 1) (pressed : Bool) :
    keyBitOk bit = true → decode (encode (.setKey bit port pressed)) = .ok (.setKey bit port pressed) := by
  decide +revert

/-- R126: a well-formed command's word decodes to it. -/
theorem decode_encode_cmd : ∀ {i : Instr}, (rowOf i).format = .cmd → i.wellFormed = true → decode (encode i) = .ok i
  | .schedule _ _, _, _ | .reschedule _ _, _, _ | .scheduleAt _ _, _, _ | .advance _, _, _ => by
    simp [encode, decode_cmdWord, decodeCmd, bitField_cmdWord, eventId_lt]
  | .deschedule e, _, _ => by cases e <;> rfl
  | .setKey bit port pressed, _, hw => decode_encode_setKey bit port pressed hw
  | .anyEventDue, _, _ | .stepOnce, _, _ | .reset, _, _ | .runFrame, _, _ | .runInstruction, _, _ | .pause, _, _
  | .resume, _, _ | .isPaused, _, _ => rfl

/-- Settles O1: format by format, the decoder reads the fields the encoder has written. -/
theorem decodeEncode : Obligations.DecodeEncode := by
  intro i hw
  cases instrKind i with
  | busop h => exact decode_encode_busop h
  | read bank r => exact decode_encode_windowInstr ((wellFormed_windowInstr false bank r).symm.trans hw) false r
  | write bank r => exact decode_encode_windowInstr ((wellFormed_windowInstr true bank r).symm.trans hw) true r
  | command h => exact decode_encode_cmd h hw
  | event e => cases e <;> rfl

end Sys2Proof.Machine
end

section
/-! SUPPORT. The rows of opcode_table.json as masked fields of a word, and the words that spell no instruction. -/

namespace Sys2Proof.Machine

/-! ### Rows and masks -/

/-- The bits of the field of `width` bits that starts at bit `lo` (R8). -/
def fieldMask (lo width : Nat) : BitVec 64 := BitVec.ofNat 64 ((2 ^ width - 1) * 2 ^ lo)

/-- A masked field is the field's number at its place. -/
theorem and_fieldMask (w : BitVec 64) (lo width : Nat) :
    w &&& fieldMask lo width = BitVec.ofNat 64 (bitField w lo width * 2 ^ lo) := by
  refine BitVec.eq_of_getLsbD_eq fun i hi => ?_
  rw [BitVec.getLsbD_and, fieldMask, bitField, BitVec.getLsbD_ofNat, BitVec.getLsbD_ofNat, Nat.testBit_mul_two_pow,
    Nat.testBit_mul_two_pow, Nat.testBit_two_pow_sub_one, Nat.testBit_mod_two_pow, Nat.testBit_div_two_pow]
  by_cases hlo : lo ≤ i
  · rw [Nat.sub_add_cancel hlo]
    simp [hi, hlo, BitVec.getLsbD, Bool.and_comm]
  · simp [hlo]

theorem Row.accepts_of_and {r : Row} {w : BitVec 64} (h : w &&& r.mask = r.value) : r.accepts ⟨r.format, w⟩ = true := by
  simp [Row.accepts, h]

/-- The row of an access to a place of the window (R123 to R125): bit 22 is 0, a channel is in bits 6:4, a place of
the tail in bits 6:0. -/
def windowRow (write : Bool) : Reg → Row
  | .port p => ⟨.mmio, BitVec.ofNat 64 (write.toNat * 2 ^ 24) ||| BitVec.ofNat 64 p.offset,
      fieldMask 24 1 ||| fieldMask 22 1 ||| fieldMask 0 16⟩
  | .chan _ r => ⟨.mmio, BitVec.ofNat 64 (write.toNat * 2 ^ 24) ||| 0x4300 ||| BitVec.ofNat 64 r.number,
      fieldMask 24 1 ||| fieldMask 22 1 ||| fieldMask 7 9 ||| fieldMask 0 4⟩
  | .tail _ => ⟨.mmio, BitVec.ofNat 64 (write.toNat * 2 ^ 24) ||| 0x4380,
      fieldMask 24 1 ||| fieldMask 22 1 ||| fieldMask 7 9⟩

theorem rowOf_windowInstr (write : Bool) (bank : Byte) (r : Reg) :
    rowOf (windowInstr write bank r) = windowRow write r := by
  cases write <;> cases r with
  | port p => cases p <;> rfl
  | chan c r => cases r <;> rfl
  | tail low => rfl

theorem chanRegNumber_lt (r : ChanReg) : r.number < 16 := by cases r <;> decide

/-- Bit 22 of the word of an access to a system bank (R91). -/
theorem bitField_22_mmioWord (write : Bool) {bank : Byte} (r : Reg) (h : systemBank bank = true) :
    bitField (mmioWord write bank r).bits 22 1 = 0 := by
  have ho := offset_lt r
  have bit6 : bank.toNat / 2 ^ 6 % 2 = 0 := by
    rw [systemBank, Bool.not_eq_true', BitVec.getLsbD, Nat.testBit_eq_decide_div_mod_eq, decide_eq_false_iff_not] at h
    omega
  rw [bitField, toNat_mmioWord]
  omega

theorem windowRow_format (write : Bool) (r : Reg) : (windowRow write r).format = .mmio := by cases r <;> rfl

/-- Under its row's mask the word of an access to a system bank is the row's value (R120, R123). -/
theorem and_mask_windowRow (write : Bool) {bank : Byte} (r : Reg) (h : systemBank bank = true) :
    (mmioWord write bank r).bits &&& (windowRow write r).mask = (windowRow write r).value := by
  obtain ⟨direction, -, offset⟩ := bitField_mmioWord write bank r
  have bankBit := bitField_22_mmioWord write r h
  have high : bitField (mmioWord write bank r).bits 7 9 = r.offset / 2 ^ 7 := by
    rw [← offset, bitField, bitField]; omega
  have low : bitField (mmioWord write bank r).bits 0 4 = r.offset % 2 ^ 4 := by
    rw [← offset, bitField, bitField]; omega
  cases r with
  | port p =>
    simp [windowRow, BitVec.and_or_distrib_left, and_fieldMask, direction, bankBit, offset, Reg.offset]
  | chan c r =>
    have hr := chanRegNumber_lt r
    rw [show (Reg.chan c r).offset / 2 ^ 7 = 0x86 by simp only [Reg.offset]; omega] at high
    rw [show (Reg.chan c r).offset % 2 ^ 4 = r.number by simp only [Reg.offset]; omega] at low
    simp [windowRow, BitVec.and_or_distrib_left, and_fieldMask, direction, bankBit, high, low]
  | tail place =>
    rw [show (Reg.tail place).offset / 2 ^ 7 = 0x87 by simp only [Reg.offset]; omega] at high
    simp [windowRow, BitVec.and_or_distrib_left, and_fieldMask, direction, bankBit, high]

/-! ### What the decoder takes -/

/-- A packet matches the row of an instruction, and the instruction is well formed (R120). -/
abbrev MatchesRow (p : Packet) (i : Instr) : Prop := (rowOf i).accepts p = true ∧ i.wellFormed = true

/-- The row of the BUSOP words of a kind (R121, R122). -/
def busopRow (kind : Nat) : Row := ⟨.busop, BitVec.ofNat 64 (kind * 2 ^ 32), fieldMask 32 4⟩

/-- The row of the CMD words of an op: bits 51:48 are 0 (R126). -/
def cmdRow (op : Nat) : Row := ⟨.cmd, BitVec.ofNat 64 (op * 2 ^ 56), fieldMask 56 8 ||| fieldMask 48 4⟩

/-- The row of the EVENT word of an id (R127). -/
def eventIdRow (id : Nat) : Row := ⟨.event, BitVec.ofNat 64 (id * 2 ^ 0), fieldMask 0 4⟩

theorem matchesRow_of_decodeBusop {w : BitVec 64} {i : Instr} (h : decodeBusop w = .ok i) : MatchesRow ⟨.busop, w⟩ i := by
  have row : rowOf i = busopRow (bitField w 32 4) ∧ i.wellFormed = true := by
    unfold decodeBusop at h
    split at h <;> cases h <;> exact ⟨by rw [‹bitField w 32 4 = _›]; rfl, rfl⟩
  exact ⟨row.1 ▸ Row.accepts_of_and (and_fieldMask w 32 4), row.2⟩

/-- An MMIO word is the word of its fields (R123). -/
theorem eq_mmioWord {w : BitVec 64} {r : Reg} (hw : w.toNat < 2 ^ 25) (offset : bitField w 0 16 = r.offset) :
    w = (mmioWord (bitField w 24 1 == 1) (BitVec.ofNat 8 (bitField w 16 8)) r).bits := by
  have direction : (bitField w 24 1 == 1).toNat = bitField w 24 1 := by
    rcases Nat.mod_two_eq_zero_or_one (w.toNat / 2 ^ 24) with d | d <;> rw [bitField, Nat.pow_one, d] <;> rfl
  refine BitVec.eq_of_toNat_eq ?_
  rw [toNat_mmioWord, direction, ← offset]
  simp only [bitField, BitVec.toNat_ofNat]
  omega

theorem matchesRow_of_decodeMmio {w : BitVec 64} {i : Instr} (hw : w.toNat < 2 ^ 25) (h : decodeMmio w = .ok i) :
    MatchesRow ⟨.mmio, w⟩ i := by
  obtain ⟨r, hr, rfl⟩ := decodeMmio_eq_ok.1 h
  obtain ⟨bank, offset⟩ := windowReg_bitField.1 hr
  have masked := and_mask_windowRow (bitField w 24 1 == 1) r bank
  rw [← eq_mmioWord hw offset] at masked
  refine ⟨?_, (wellFormed_windowInstr _ _ r).trans bank⟩
  rw [rowOf_windowInstr]
  exact windowRow_format _ r ▸ Row.accepts_of_and masked

theorem matchesRow_of_decodeCmd {w : BitVec 64} {i : Instr} (h : decodeCmd w = .ok i) : MatchesRow ⟨.cmd, w⟩ i := by
  have row : bitField w 48 4 = 0 ∧ rowOf i = cmdRow (bitField w 56 8) ∧ i.wellFormed = true := by
    simp only [decodeCmd] at h
    split at h
    · cases h
    refine ⟨not_not.1 ‹_›, ?_⟩
    split at h
    case h_1 | h_2 | h_3 | h_7 => split at h <;> cases h; exact ⟨by rw [‹bitField w 56 8 = _›]; rfl, rfl⟩
    case h_11 => split at h <;> cases h; exact ⟨by rw [‹bitField w 56 8 = _›]; rfl, ‹_›⟩
    case h_15 => cases h
    all_goals cases h; exact ⟨by rw [‹bitField w 56 8 = _›]; rfl, rfl⟩
  obtain ⟨reserved, row, wellFormed⟩ := row
  refine ⟨row ▸ Row.accepts_of_and ?_, wellFormed⟩
  simp [cmdRow, BitVec.and_or_distrib_left, and_fieldMask, reserved]

theorem id_of_eventOfId {n : Nat} {e : EventId} (h : eventOfId n = some e) : n = e.id := by
  unfold eventOfId at h
  split at h <;> cases h <;> rfl

theorem matchesRow_of_decodeEvent {w : BitVec 64} {i : Instr} (h : decodeEvent w = .ok i) : MatchesRow ⟨.event, w⟩ i := by
  have row : rowOf i = eventIdRow (bitField w 0 4) ∧ i.wellFormed = true := by
    unfold decodeEvent at h
    split at h <;> cases h <;> exact ⟨by rw [id_of_eventOfId ‹eventOfId (bitField w 0 4) = some _›]; rfl, rfl⟩
  exact ⟨row.1 ▸ Row.accepts_of_and (and_fieldMask w 0 4), row.2⟩

/-- Settles O2: format by format, the fields a row masks are those the decoder has chosen the instruction by. -/
theorem decodedWordMatchesItsRow : Obligations.DecodedWordMatchesItsRow := by
  rintro ⟨f, w⟩ i h
  have fits : w.toNat < 2 ^ f.width := by
    by_contra wide
    rw [decode, if_pos (Nat.not_lt.1 wide)] at h
    cases h
  cases f with
  | busop => exact matchesRow_of_decodeBusop ((decode_busop fits).symm.trans h)
  | mmio => exact matchesRow_of_decodeMmio fits ((decode_mmio fits).symm.trans h)
  | cmd => exact matchesRow_of_decodeCmd ((decode_cmd w).symm.trans h)
  | event => exact matchesRow_of_decodeEvent ((decode_event fits).symm.trans h)


/-! ### Words that spell no instruction -/

/-- A packet whose step is refused, whatever the state (R146). -/
abbrev Illegal (p : Packet) : Prop := ∃ e, decode p = .error e ∧ ∀ s, noInstruction e s = .refused .badCommand

theorem step_of_error {s : State} {p : Packet} {rest : List Packet} {e : DecodeError} (hs : s.inbox = p :: rest)
    (h : decode p = .error e) : step s = noInstruction e (takeWord rest s) := by
  simp only [step, hs, h]

theorem step_of_illegal {s : State} {p : Packet} {rest : List Packet} (hs : s.inbox = p :: rest) (h : Illegal p) :
    step s = .refused .badCommand := by
  obtain ⟨e, he, refused⟩ := h
  exact (step_of_error hs he).trans (refused _)

/-- A bit above the width of its format makes a packet illegal (log 20). -/
theorem illegal_of_tooWide {p : Packet} (h : 2 ^ p.format.width ≤ p.bits.toNat) : Illegal p :=
  ⟨.tooWide, if_pos h, fun _ => rfl⟩

/-- R121: a BUSOP word of kind 9 or more. -/
theorem illegal_busop {w : BitVec 64} (h : 9 ≤ bitField w 32 4) : Illegal ⟨.busop, w⟩ := by
  by_cases wide : 2 ^ 36 ≤ w.toNat
  · exact illegal_of_tooWide wide
  refine ⟨.badKind (bitField w 32 4), ?_, fun _ => rfl⟩
  rw [decode_busop (Nat.not_le.1 wide), decodeBusop]
  split
  case h_10 => rfl
  all_goals omega

theorem eventOfId_of_le {n : Nat} (h : 5 ≤ n) : eventOfId n = none := by
  unfold eventOfId
  split
  case h_6 => rfl
  all_goals omega

/-- R127: an EVENT word of id 5 or more. -/
theorem illegal_event {w : BitVec 64} (h : 5 ≤ bitField w 0 4) : Illegal ⟨.event, w⟩ := by
  by_cases wide : 2 ^ 4 ≤ w.toNat
  · exact illegal_of_tooWide wide
  refine ⟨.badEvent (bitField w 0 4), ?_, fun _ => rfl⟩
  rw [decode_event (Nat.not_le.1 wide), decodeEvent, eventOfId_of_le h]

/-- R126: a CMD word with one of the bits 51:48 set. -/
theorem illegal_cmd_reserved {w : BitVec 64} (h : bitField w 48 4 ≠ 0) : Illegal ⟨.cmd, w⟩ :=
  ⟨.reservedBits (bitField w 48 4), (decode_cmd w).trans (if_pos h), fun _ => rfl⟩

/-- R126: a CMD word with an op of no row. -/
theorem illegal_cmd_op {w : BitVec 64}
    (h : bitField w 56 8 ∉ [0x01, 0x02, 0x03, 0x04, 0x05, 0x06, 0x07, 0x10, 0x11, 0x12, 0x13, 0x14, 0x15, 0x16]) :
    Illegal ⟨.cmd, w⟩ := by
  by_cases reserved : bitField w 48 4 ≠ 0
  · exact illegal_cmd_reserved reserved
  refine ⟨.badOp (bitField w 56 8), ?_, fun _ => rfl⟩
  simp only [decode_cmd, decodeCmd, reserved, if_false]
  split
  case h_15 => rfl
  all_goals exact absurd (by simp [‹bitField w 56 8 = _›]) h

/-- R394: a SET_KEY of a button bit below 4. -/
theorem illegal_setKey {w : BitVec 64} (hop : bitField w 56 8 = 0x13) (h : bitField w 8 4 < 4) : Illegal ⟨.cmd, w⟩ := by
  by_cases reserved : bitField w 48 4 ≠ 0
  · exact illegal_cmd_reserved reserved
  have key : keyBitOk (BitVec.ofNat 4 (bitField w 8 4)) = false := by
    rw [keyBitOk, BitVec.toNat_ofNat]
    exact decide_eq_false (by omega)
  refine ⟨.badKeyBit (BitVec.ofNat 4 (bitField w 8 4)).toNat, ?_, fun _ => rfl⟩
  simp only [decode_cmd, decodeCmd, reserved, hop, key, if_false]
  rfl

/-- Settles O4: each word of the first three clauses is illegal; an MMIO word of its width reaches a place of the window
or spells the router's access. -/
theorem illegalWordsAreRefused : Obligations.IllegalWordsAreRefused := by
  rintro s ⟨f, w⟩ rest hs
  refine ⟨?_, ?_, ?_, ?_⟩
  · rintro rfl kind
    exact step_of_illegal hs (illegal_busop kind)
  · rintro rfl id
    exact step_of_illegal hs (illegal_event id)
  · rintro rfl bad
    refine step_of_illegal hs ?_
    rcases bad with op | reserved | ⟨op, bit⟩
    · exact illegal_cmd_op op
    · exact illegal_cmd_reserved reserved
    · exact illegal_setKey op bit
  · rintro rfl fits
    rw [decode_mmio fits]
    cases hr : windowReg (BitVec.ofNat 24 (bitField w 0 24)) with
    | some r => exact .inl ⟨_, decodeMmio_eq_ok.2 ⟨r, hr, rfl⟩⟩
    | none => exact .inr ⟨rfl, step_of_error hs ((decode_mmio fits).trans (decodeMmio_outside hr))⟩

/-- Settles O3: the decoder, run on each word. -/
theorem wordsReadRight : Obligations.WordsReadRight := ⟨rfl, rfl, rfl, rfl, rfl, rfl, rfl, rfl, rfl⟩

end Sys2Proof.Machine
end

section
/-! SUPPORT. A GDMA step that moves a byte between plain memory on both sides, the line counting of an HDMA entry, the
registers no transfer changes, and the host's switches. -/

namespace Sys2Proof.Machine

/-! ### A byte of a GDMA -/

/-- A byte of a GDMA between plain memory on both sides (R296, R297). -/
theorem gdmaTransfer_plain (t0 : Nat) {c : Chan} {s : State} (hc : s.gdmaChannel = c)
    (enabled : s.mdmaen.getLsbD c.val = true) (ha : dmaRegWindow (gdmaAddr (channel s c)) = false)
    (hb : windowReg (unitB (channel s c) s.gdmaIndex) = none)
    (hra : regionKind s (gdmaAddr (channel s c)) = some .ram)
    (hrb : regionKind s (unitB (channel s c) s.gdmaIndex) = some .ram) :
    gdmaTransfer t0 s = .ok () (gdmaAfterByte t0 c (copyByte
      (location s (if toABus (channel s c) then unitB (channel s c) s.gdmaIndex else gdmaAddr (channel s c)))
      (location s (if toABus (channel s c) then gdmaAddr (channel s c) else unitB (channel s c) s.gdmaIndex)) s)) := by
  subst hc
  simp only [gdmaTransfer, enabled, ha, Bool.not_true, Bool.false_eq_true, if_false, moveByte_ram ha hb hra hrb, Run.bind]
  rfl

/-- The step of the A-bus address, `DMAP[4:3]`, as a number modulo 2^16 (R130). -/
def addressStep (ch : Channel) : Half :=
  match (ch.dmap.extractLsb' 3 2).toNat with
  | 0 => 1
  | 2 => 0xFFFF
  | _ => 0

theorem stepA1t_eq_add (ch : Channel) : stepA1t ch = ch.a1t + addressStep ch := by
  unfold stepA1t addressStep
  generalize (ch.dmap.extractLsb' 3 2).toNat = control
  match control with
  | 0 => rfl
  | 1 => exact (BitVec.add_zero _).symm
  | 2 => exact BitVec.sub_eq_add_neg _ _
  | _ + 3 => exact (BitVec.add_zero _).symm

/-- The channel once a byte has moved (R298, R299). -/
def steppedChannel (ch : Channel) : Channel := { ch with a1t := ch.a1t + addressStep ch, das := ch.das - 1 }

/-- R298 to R300: a byte steps the channel and queues the next step; the last one clears the channel's enable and goes
to the selection. -/
theorem gdmaAfterByte_eq (t0 : Nat) (c : Chan) (s : State) :
    gdmaAfterByte t0 c s = scheduleAt .dma (t0 + s.cfg.dmaByte) (setChannel c (steppedChannel (channel s c)) { s with
      gdmaIndex := s.gdmaIndex + 1
      mdmaen := if (channel s c).das = 1 then s.mdmaen &&& ~~~(1#8 <<< c.val) else s.mdmaen
      gdmaPhase := if (channel s c).das = 1 then .select else s.gdmaPhase }) := by
  have last : (channel s c).das - 1 = 0 ↔ (channel s c).das = 1 := by bv_omega
  simp only [gdmaAfterByte, stepA1t_eq_add, last]
  split <;> rfl

/-- R94, R129, R293: the B-bus address of byte `i`, for the patterns the block uses. -/
theorem unitB_eq_append {ch : Channel} (i : Nat) (h4 : patternOf ch ≠ 4) (h5 : patternOf ch ≠ 5) :
    unitB ch i = 0x0021#16 ++ (ch.bbad + BitVec.ofNat 8
      (([[0], [0, 1], [0, 0], [0, 0, 1, 1], [], [], [0, 0], [0, 0, 1, 1]].getD (patternOf ch) []).getD
        (i % ([1, 2, 2, 4, 4, 4, 2, 4].getD (patternOf ch) 1)) 0)) := by
  rw [unitB, bBusAddr_eq_append, unitAddr, unitOffsets_eq_getD (patternOf_lt ch) h4 h5,
    unitLength_eq_getD (patternOf_lt ch)]

/-- The state a GDMA step leaves that has moved a byte of channel `c` from `src` to `dst` (R296 to R300). -/
def afterGdmaByte (c : Chan) (src dst : Nat) (s : State) : State :=
  setCurrent none (scheduleAt .dma ((event s .dma).when + s.cfg.dmaByte) (setChannel c (steppedChannel (channel s c)) {
    copyByte src dst s with
      gdmaIndex := s.gdmaIndex + 1
      mdmaen := if (channel s c).das = 1 then s.mdmaen &&& ~~~(1#8 <<< c.val) else s.mdmaen
      gdmaPhase := if (channel s c).das = 1 then .select else s.gdmaPhase }))

/-- R294, R296: a GDMA step in TRANSFER between plain memory on both sides, whole. -/
theorem exec_evDma_plain {c : Chan} {s : State} (can : CanFire .dma s) (transfer : s.gdmaPhase = .transfer)
    (hc : s.gdmaChannel = c) (enabled : s.mdmaen.getLsbD c.val = true)
    (ha : dmaRegWindow (gdmaAddr (channel s c)) = false)
    (hb : windowReg (unitB (channel s c) s.gdmaIndex) = none)
    (hra : regionKind s (gdmaAddr (channel s c)) = some .ram)
    (hrb : regionKind s (unitB (channel s c) s.gdmaIndex) = some .ram) :
    exec .evDma s = .next (afterGdmaByte c
      (location s (if toABus (channel s c) then unitB (channel s c) s.gdmaIndex else gdmaAddr (channel s c)))
      (location s (if toABus (channel s c) then gdmaAddr (channel s c) else unitB (channel s c) s.gdmaIndex)) s) := by
  have moved := gdmaTransfer_plain (event s .dma).when (s := setCurrent (some .dma) (deschedule .dma s)) hc enabled ha
    hb hra hrb
  rw [exec_evDma can]
  simp only [transfer, moved, gdmaAfterByte_eq]
  rfl

/-- Settles O43: by `exec_evDma_plain` the step is the copy of one byte and an update of the channel, the sequencer and
EV_DMA alone. -/
theorem gdmaMovesAByte : Obligations.GdmaMovesAByte := by
  intro s c can transfer hc enabled wf ch p a offset b h4 h5 ha hb hra hrb src dst step
  have bAddr : unitB ch s.gdmaIndex = b := unitB_eq_append s.gdmaIndex h4 h5
  have moves := exec_evDma_plain can transfer hc enabled ha (bAddr ▸ hb) hra (bAddr ▸ hrb)
  rw [bAddr] at moves
  refine ⟨afterGdmaByte c src dst s, moves, readByte_writeByte_same dst _ s.mem wf.1,
    fun x hx => readByte_writeByte_other _ s.mem hx, rfl, channel_setChannel_same c _ _,
    fun d hd => channel_setChannel_other _ _ hd, rfl, fun last => ⟨if_pos last, if_pos last⟩,
    fun more => ⟨(if_neg more).trans transfer, if_neg more⟩, rfl, rfl, fun e he => ?_, rfl⟩
  exact event_scheduleAt_other _ _ he

/-! ### The lines of an HDMA entry -/

/-- R328: a line before the last one. -/
theorem hdmaCount_of_more {c : Chan} {s : State} {n : Byte} (hn : (channel s c).ntrl - 1 = n)
    (more : n.extractLsb' 0 7 ≠ 0) :
    hdmaCount c s = .ok 0 (setChannel c { channel s c with ntrl := n, hdmaDoTransfer := n.getLsbD 7 } s) := by
  subst hn
  exact if_neg more

/-- R328, R329: the last line of an entry. -/
theorem hdmaCount_of_last {c : Chan} {s : State} {n : Byte} (hn : (channel s c).ntrl - 1 = n)
    (last : n.extractLsb' 0 7 = 0) :
    hdmaCount c s = hdmaReload c (setChannel c { channel s c with ntrl := n, hdmaDoTransfer := n.getLsbD 7 } s) := by
  subst hn
  exact if_pos last

theorem lineField_eq_zero_iff (x : Byte) : x.extractLsb' 0 7 = 0 ↔ x.toNat % 128 = 0 := by
  rw [← BitVec.toNat_inj, BitVec.extractLsb'_toNat, Nat.shiftRight_zero]
  rfl

/-- Settles O46: over the lines of an entry the count falls without wrapping, from `h` to a last count whose line field
is 0; before that its top bit is set exactly from the headers above `$80`. -/
theorem hdmaLineCounting : Obligations.HdmaLineCounting := by
  intro h n k c s nonzero hn one le hntrl
  have lt : h.toNat < 256 := h.isLt
  have pos : h.toNat ≠ 0 := fun z => nonzero (BitVec.eq_of_toNat_eq z)
  have lines : n = if h.toNat % 128 = 0 then 128 else h.toNat % 128 := by
    simp only [hn, lineField_eq_zero_iff, BitVec.extractLsb'_toNat, Nat.shiftRight_zero, Nat.reducePow]
  have count : (h - BitVec.ofNat 8 k).toNat = h.toNat - k := by
    rw [BitVec.toNat_sub, BitVec.toNat_ofNat]
    split at lines <;> omega
  have fall : (channel s c).ntrl - 1 = h - BitVec.ofNat 8 k := by
    rw [hntrl, BitVec.sub_sub]
    exact congrArg (h - ·) ((BitVec.ofNat_add (k - 1) 1).symm.trans (by rw [Nat.sub_add_cancel one]))
  refine ⟨fun more => ⟨hdmaCount_of_more fall fun z => ?_, ?_⟩, fun last => hdmaCount_of_last fall ?_⟩
  · rw [lineField_eq_zero_iff, count] at z
    split at lines <;> omega
  · change (h - BitVec.ofNat 8 k).getLsbD 7 = _
    rw [BitVec.getLsbD, count, Nat.testBit_eq_decide_div_mod_eq, decide_eq_decide]
    split at lines <;> omega
  · rw [lineField_eq_zero_iff, count]
    split at lines <;> omega

/-! ### The registers no transfer changes -/

/-- Every end of a part of an operation has the fixed registers of channel `c` it began with. -/
abbrev FixedSat (c : Chan) (s : State) (r : Run Unit) : Prop :=
  Run.Sat (fun t => FixedRegisters (channel s c) (channel t c)) (fun t => FixedRegisters (channel s c) (channel t c)) r

theorem FixedSat.replyDelay {c : Chan} {s : State} {r : Run Unit} (h : FixedSat c s r) : FixedSat c s (replyDelay r) := by
  cases r <;> exact h

/-- An Advance changes no fixed register of a channel (R168, R298). -/
theorem advance_fixed (n : Nat) (c : Chan) (s : State) : FixedSat c s (advance n s) := by
  refine (advance_sat n s).mono (fun t ⟨keeps, _⟩ => keeps.channels c) fun t ends => ?_
  rcases ends with ⟨keeps, -⟩ | ⟨-, below⟩
  · exact keeps.channels c
  · cases below
    exact ⟨rfl, rfl, rfl, rfl, rfl⟩

/-- Settles O45: everything firing an event and an Advance leave alone includes the fixed registers. -/
theorem transfersKeepTheBank : Obligations.TransfersKeepTheBank := by
  intro i s t c kind h
  suffices fixed : FixedRegisters (channel s c) (channel t c) by
    obtain ⟨dmap, bbad, a1b, dasb, unused⟩ := fixed
    exact ⟨a1b, dasb, dmap, bbad, unused⟩
  have event (e : EventId) (he : exec (eventRow e) s = .next t) : FixedRegisters (channel s c) (channel t c) := by
    rw [exec_eventRow] at he
    rcases unlessFaulted_next he with rfl | ⟨-, he⟩
    · simp [FixedRegisters]
    · exact (Run.Sat.of_next (fireEvent_keeps e s) he).channels c
  rcases kind with rfl | rfl | rfl | rfl | rfl | ⟨n, rfl⟩
  · exact event .irq h
  · exact event .video h
  · exact event .dma h
  · exact event .stall h
  · exact event .joy h
  · simp only [exec, execAdvance] at h
    split at h
    · cases h
      exact ⟨rfl, rfl, rfl, rfl, rfl⟩
    · exact Run.Sat.of_next (advance_fixed n.toNat c s).replyDelay h

/-! ### The host's switches -/

/-- R394: the button's bit is written, and no other. -/
theorem getLsbD_withKey (input : Half) (bit : BitVec 4) (pressed : Bool) {k : Nat} (hk : k < 16) :
    (withKey input bit pressed).getLsbD k = if k = bit.toNat then pressed else input.getLsbD k := by
  have mask : (1#16 <<< bit.toNat).getLsbD k = decide (k = bit.toNat) := by
    rw [← BitVec.twoPow_eq, BitVec.getLsbD_twoPow]
    simp [bit.isLt, eq_comm]
  cases pressed with
  | true =>
    simp only [withKey, if_true, BitVec.getLsbD_or, mask]
    split <;> simp [*]
  | false =>
    simp only [withKey, Bool.false_eq_true, if_false, BitVec.getLsbD_and, BitVec.getLsbD_not, mask, hk]
    split <;> simp [*]

/-- Settles O50: the commands unfolded at their gate, and a key's write bit by bit. -/
theorem hostSwitches : Obligations.HostSwitches := by
  refine ⟨fun s => rfl, fun s live => ⟨unlessFaulted_live live _, unlessFaulted_live live _, fun paused => ?_⟩,
    fun s bit port pressed => ⟨fun hb live => ?_, fun hb => ?_⟩⟩
  · have held : (s.paused || s.fault.isSome) = true := by rw [paused, Bool.true_or]
    exact ⟨if_pos held, if_pos held⟩
  · have key : keyBitOk bit = true := decide_eq_true hb
    refine ⟨_, (if_pos key).trans (unlessFaulted_live live _), fun p k hk => ?_, rfl⟩
    simp only [Fin.getElem_fin, Vector.getElem_set]
    by_cases hp : port.toNat = p.val
    · simp only [hp, if_true, true_and, getLsbD_withKey _ bit pressed hk]
    · simp only [hp, Ne.symm hp, if_false, false_and]
  · have key : keyBitOk bit = false := decide_eq_false (Nat.not_le.2 hb)
    exact if_neg (Bool.eq_false_iff.1 key)

end Sys2Proof.Machine
end

section
/-! SUPPORT. The order of the queue, the scheduler's commands, ADVANCE where it fires nothing and where it fires EV_IRQ
alone, a run-loop step that performs no request, and the fault state. -/

namespace Sys2Proof.Machine

/-! ### The queue -/

theorem insertEvent_perm (s : State) (e : EventId) (l : List EventId) : (insertEvent s e l).Perm (e :: l) := by
  induction l with
  | nil => exact .refl _
  | cons f rest ih =>
    simp only [insertEvent]
    split
    · exact (ih.cons f).trans (.swap e f rest)
    · exact .refl _

/-- The queue is a rearrangement of the queued events (R33). -/
theorem queue_perm (s : State) : (queue s).Perm (allEvents.filter fun e => (event s e).queued) := by
  unfold queue
  induction allEvents.filter fun e => (event s e).queued with
  | nil => exact .refl _
  | cons e rest ih => exact (insertEvent_perm s e _).trans (ih.cons e)

theorem queue_nodup (s : State) : (queue s).Nodup := by
  have once : allEvents.Nodup := by decide
  exact (queue_perm s).nodup_iff.2 (once.filter _)

/-- Settles O10: the queue is a sorted rearrangement of the queued events; that a later event does not fire before an
earlier one is the order of the keys, equal ones allowed. -/
theorem queueOrder : Obligations.QueueOrder := by
  refine fun s => ⟨mem_queue s, queue_nodup s, (queue_sorted s).imp fun {e f} h => ?_, rfl⟩
  rw [← Bool.not_eq_true, firesBefore_iff] at h
  omega

/-! ### The scheduler's commands -/

theorem setEvent_setEvent (es : Events) (e : EventId) (v w : Event) :
    setEvent (setEvent es e v) e w = setEvent es e w := by cases e <;> rfl

/-- Rescheduling is scheduling: what a queued event was queued with is lost (R164). -/
theorem reschedule_eq (e : EventId) (d : Nat) (s : State) : reschedule e d s = schedule e d s := by
  simp only [reschedule, schedule, scheduleAt, deschedule, setEvent_setEvent]

/-- Settles O11: the commands at their gate; a rescheduled event is a scheduled one. -/
theorem schedulerCommands : Obligations.SchedulerCommands := by
  refine ⟨fun s e live => ⟨fun t => unlessFaulted_live live _, fun d => unlessFaulted_live live _, fun d => ?_,
    unlessFaulted_live live _⟩, fun s => ⟨anyEventDue s, rfl, anyEventDue_iff s⟩⟩
  exact (unlessFaulted_live live _).trans (congrArg Host.Outcome.next (reschedule_eq e d.toNat s))

/-! ### Advance -/

theorem exec_advance_live {s : State} (live : Live s) (n : BitVec 48) :
    exec (.advance n) s = (replyDelay (advance n.toNat s)).outcome := by
  simp [exec, execAdvance, live]

/-- An Advance that covers the uncommitted cycles commits them and drains (R168). -/
theorem advance_covered {n : Nat} {s : State} (h : s.ahead ≤ n) :
    advance n s = drain (drainFuel (commit n s)) (commit n s) := if_neg (Nat.not_lt.2 h)

/-- The drain fires an event that alone has been reached (R168). -/
theorem dueEvent_of_only {e : EventId} {s : State} (hq : (event s e).queued = true)
    (hw : (event s e).when ≤ s.committed)
    (others : ∀ f, f ≠ e → (event s f).queued = true → s.committed < (event s f).when) : dueEvent s = some e := by
  cases hd : dueEvent s with
  | none => exact absurd ((dueEvent_none_iff s).1 hd e hq) (Nat.not_lt.2 hw)
  | some f =>
    obtain ⟨fq, fw, -⟩ := dueEvent_some hd
    by_contra differs
    have later := others f (fun same => differs (congrArg some same)) fq
    omega

/-- Settles O12: below `ahead` the fault, else a drain that finds nothing due. -/
theorem advanceCommits : Obligations.AdvanceCommits := by
  refine fun s n live => ⟨fun below => ?_, fun covered later => ?_⟩
  · rw [exec_advance_live live, advance, if_pos below]
    rfl
  · have quiet : dueEvent (commit n.toNat s) = none := (dueEvent_none_iff _).2 later
    have delay : nextDelay (commit n.toNat s) = (horizon s).map fun h => h - (s.committed + n.toNat) := by
      rw [nextDelay, horizon_congr (commit_events n.toNat s) (commit_cfg n.toNat s)]
      simp [live]
    rw [exec_advance_live live, advance_covered covered, drain_none quiet, replyDelay, delay]
    rfl

/-- The state EV_IRQ leaves in a mode other than %00 (R421). -/
def afterIrq (s : State) : State := { deschedule .irq s with irqFlag := true, current := none }

theorem event_afterIrq_other {e : EventId} (s : State) (h : e ≠ .irq) : event (afterIrq s) e = event s e :=
  event_deschedule_other s h

theorem queued_afterIrq (s : State) : (event (afterIrq s) .irq).queued = false :=
  congrArg Event.queued (event_deschedule_same .irq s)

theorem fireEvent_irq {s : State} (ha : s.ahead = 0) (hm : irqMode s ≠ 0) : fireEvent .irq s = .ok () (afterIrq s) := by
  have mode : irqMode (setCurrent (some .irq) (deschedule .irq s)) ≠ 0 := hm
  have charged : ¬ (setCurrent (some .irq) (deschedule .irq s)).ahead ≠ 0 := not_not.2 ha
  rw [fireEvent, dispatch, if_neg charged]
  simp only [irqAssert, if_pos mode]
  rfl

/-- Settles O13: the drain's first event is EV_IRQ, and once it has fired nothing is due. -/
theorem advanceFiresTheDueEvent : Obligations.AdvanceFiresTheDueEvent := by
  intro s n live covered mode queued reached others
  have first : dueEvent (commit n.toNat s) = some .irq := dueEvent_of_only queued reached others
  have fires : fireEvent .irq (commit n.toNat s) = .ok () (afterIrq (commit n.toNat s)) := fireEvent_irq rfl mode
  have rest (e : EventId) (he : e ≠ .irq) : event (afterIrq (commit n.toNat s)) e = event s e :=
    event_afterIrq_other _ he
  have gone := queued_afterIrq (commit n.toNat s)
  have quiet : dueEvent (afterIrq (commit n.toNat s)) = none := by
    refine (dueEvent_none_iff _).2 fun e he => ?_
    by_cases irq : e = .irq
    · rw [irq, gone] at he
      cases he
    · rw [rest e irq] at he ⊢
      exact others e irq he
  obtain ⟨k, fuel⟩ := drainFuel_eq (commit n.toNat s)
  refine ⟨{ afterIrq (commit n.toNat s) with reply := .delay (nextDelay (afterIrq (commit n.toNat s))) },
    ?_, live, rfl, gone, rfl, rfl, rest⟩
  rw [exec_advance_live live, advance_covered covered, fuel, drain_some first, fires, Run.bind, drain_none quiet]
  rfl

/-- An event's firing that is cut short is cut short by a fault (R411). -/
theorem fireEvent_raised (e : EventId) (s : State) :
    Run.Sat (fun _ => True) (fun t => t.fault ≠ none) (fireEvent e s) := by
  refine callbackDone_sat ?_
  unfold dispatch
  split
  · exact Option.some_ne_none _
  · cases e with
    | irq | stall | joy => exact True.intro
    | video => exact (videoTick_sat _ _).mono (fun _ _ => True.intro) fun t ⟨_, f, hf, _⟩ => by simp [hf]
    | dma => exact (gdmaStep_sat _ _).mono (fun _ _ => True.intro) fun t ⟨_, hf, _⟩ => hf

/-- A callback neither moves the clock nor the CPU's state (R169). -/
theorem CallbackKeeps.clock {s t : State} (h : CallbackKeeps s t) :
    t.cpuState = s.cpuState ∧ t.committed = s.committed ∧ t.ahead = s.ahead := by
  have cpu := congrArg State.cpuState h.rest
  have committed := congrArg State.committed h.rest
  have ahead := congrArg State.ahead h.rest
  exact ⟨cpu, committed, ahead⟩

/-- An Advance leaves the CPU's state; it commits its cycles and leaves nothing due, or ends in the fault state (R168,
R170, R411). -/
theorem advance_ends (n : Nat) (s : State) :
    Run.Sat
      (fun t => t.cpuState = s.cpuState ∧ t.committed = s.committed + n ∧ t.ahead = 0 ∧ NoneDueBy t.committed t)
      (fun t => t.cpuState = s.cpuState ∧ t.fault ≠ none) (advance n s) := by
  have ends : Run.Sat (fun _ => True) (fun t => t.fault ≠ none) (advance n s) := by
    unfold advance
    split
    · exact Option.some_ne_none _
    · exact (drain_sat (fun e u _ _ => fireEvent_raised e u) _ _ True.intro).mono (fun _ _ => True.intro) fun _ => id
  refine ((advance_sat n s).and ends).mono (fun t ⟨⟨k, quiet, _⟩, _⟩ => ?_) fun t ⟨k, fault⟩ => ⟨?_, fault⟩
  · obtain ⟨cpu, committed, ahead⟩ := k.clock
    exact ⟨cpu, committed, ahead, (dueEvent_none_iff t).1 quiet⟩
  · rcases k with ⟨k, -⟩ | ⟨-, below⟩
    · exact k.clock.1
    · cases below
      rfl

/-- Settles O14: an ADVANCE that ends in no fault has drained, and the delay it returns leads to the horizon. -/
theorem advanceReturnsTheDelay : Obligations.AdvanceReturnsTheDelay := by
  intro s t n live ht liveNext
  rw [exec_advance_live live] at ht
  have ends := advance_ends n.toNat s
  cases hr : advance n.toNat s with
  | ok a u =>
    rw [hr] at ht ends
    cases ht
    obtain ⟨-, committed, ahead, quiet⟩ := ends
    refine ⟨committed, ahead, quiet, fun ⟨e, he⟩ => ?_⟩
    obtain ⟨w, hw⟩ := horizon_isSome (s := u) he
    obtain ⟨⟨f, fq, fw⟩, least⟩ := horizon_some hw
    have later : u.committed < w := fw ▸ quiet f fq
    have reached : u.committed + (w - u.committed) = w := by omega
    refine ⟨w - u.committed, ?_, by omega, ⟨f, fq, fw.trans reached.symm⟩, fun g gq => ?_⟩
    · have noFault : u.fault = none := liveNext
      simp [nextDelay, noFault, hw]
    · exact reached.symm ▸ least g gq
  | raised u =>
    rw [hr] at ht ends
    cases ht
    exact absurd liveNext ends.2
  | stuck f | refused f =>
    rw [hr] at ht
    cases ht

/-! ### A step that performs no request -/

theorem anyEventDue_of_noneDueBy {s : State} (h : NoneDueBy (s.committed + s.ahead) s) : anyEventDue s = false := by
  rw [← Bool.not_eq_true, anyEventDue_iff]
  exact fun ⟨e, he, hw⟩ => Nat.not_le.2 (h e he) hw

theorem exec_stepOnce_broken {s : State} {clause : Invariant} (live : Live s) (h : brokenInvariant s = some clause) :
    exec .stepOnce s = (raiseFault .invariant (.broken clause) s : Run Unit).outcome := by
  simp [exec, execStepOnce, runStep, live, h]

/-- A waiting CPU with its wake condition runs again (R197, R198). -/
theorem exec_stepOnce_wakes {s : State} (live : Live s) (hb : brokenInvariant s = none) (hd : anyEventDue s = false)
    (hc : s.cpuState = .waiting) (hw : wakeCondition s = true) :
    exec .stepOnce s = .next { s with cpuState := .running } := by
  simp [exec, execStepOnce, runStep, live, hb, hd, hc, hw, Run.outcome]

/-- A CPU that neither wakes nor is granted its request is charged in bulk (R197). -/
theorem exec_stepOnce_bulk {s : State} (live : Live s) (hb : brokenInvariant s = none) (hd : anyEventDue s = false)
    (hw : s.cpuState = .waiting → wakeCondition s = false) (hr : s.cpuState = .running → busBlock s = true) :
    exec .stepOnce s = (bulkAdvance s).outcome := by
  have asleep : ¬ (s.cpuState == .waiting && wakeCondition s) = true := by simpa using hw
  have blocked : ¬ (s.cpuState == .running && !busBlock s) = true := by simpa using hr
  have start : ¬ s.fault.isSome = true := by simp [live]
  simp only [exec, execStepOnce, runStep, if_neg start, hb, hd, if_neg asleep, if_neg blocked, Bool.false_eq_true, if_false]

/-- A bulk charge leaves the CPU's state; it reaches the horizon exactly, or ends in the fault state (R172, R197). -/
theorem bulkAdvance_ends {s : State} (hd : anyEventDue s = false) :
    Run.Sat
      (fun t => t.cpuState = s.cpuState ∧ horizon s = some t.committed ∧ t.ahead = 0 ∧ NoneDueBy t.committed t)
      (fun t => t.cpuState = s.cpuState ∧ t.fault ≠ none) (bulkAdvance s) := by
  unfold bulkAdvance
  cases hh : horizon s with
  | none => exact ⟨rfl, Option.some_ne_none _⟩
  | some w =>
    have later : now s < w := by simpa [anyEventDue, hh] using hd
    refine (advance_ends (w - s.committed) s).mono (fun t ⟨cpu, committed, ahead, quiet⟩ => ?_) fun _ => id
    exact ⟨cpu, by rw [committed, Nat.add_sub_of_le (by unfold now at later; omega)], ahead, quiet⟩

/-- The CPU is stopped, or its bus is blocked (R197, R437). -/
abbrev Held (s : State) : Prop :=
  s.cpuState = .stopped ∨ (s.cpuState = .running ∧ (s.gdmaActive = true ∨ s.stallActive = true))

theorem exec_stepOnce_held {s : State} (live : Live s) (hb : brokenInvariant s = none) (hd : anyEventDue s = false)
    (held : Held s) : exec .stepOnce s = (bulkAdvance s).outcome := by
  rcases held with stopped | ⟨running, blocked⟩
  · exact exec_stepOnce_bulk live hb hd (by simp [stopped]) (by simp [stopped])
  · exact exec_stepOnce_bulk live hb hd (by simp [running]) fun _ => by simpa [busBlock] using blocked

/-- What wakes a waiting CPU (R198). -/
theorem wakeCondition_iff (s : State) :
    wakeCondition s = true ↔ s.nmiRequest = true ∨ (s.irqFlag = true ∧ (presented s).irqDisable = false) := by
  simp [wakeCondition, irqLine]

/-- Settles O20: a CPU that wakes runs, and one that does not still waits after its bulk charge; a held one is charged to
the horizon, and without one faults. -/
theorem stepWithoutAGrant : Obligations.StepWithoutAGrant := by
  refine ⟨fun s live hb later waiting => ?_, fun s t live hb later held ht liveNext => ?_,
    fun s live => ⟨fun hb empty held => ?_, fun clause h => exec_stepOnce_broken live h⟩⟩
  · have due := anyEventDue_of_noneDueBy later
    rw [← wakeCondition_iff]
    refine ⟨exec_stepOnce_wakes live hb due waiting, fun wakes => ?_⟩
    by_contra asleep
    rw [exec_stepOnce_bulk live hb due (fun _ => Bool.eq_false_iff.2 asleep) (by simp [waiting])] at wakes
    have still := ((bulkAdvance_ends due).mono (fun _ h => h.1) fun _ h => h.1).of_next wakes
    simp [waiting] at still
  · have due := anyEventDue_of_noneDueBy later
    have ends := bulkAdvance_ends due
    rw [exec_stepOnce_held live hb due held] at ht
    rcases Run.outcome_next ht with hr | hr <;> rw [hr] at ends
    · obtain ⟨-, reached, ahead, quiet⟩ := ends
      obtain ⟨⟨e, he, hw⟩, least⟩ := horizon_some reached
      exact ⟨ahead, hw ▸ later e he, ⟨e, he, hw⟩, least, quiet⟩
    · exact absurd liveNext ends.2
  · have due : anyEventDue s = false := anyEventDue_of_noneDueBy fun e he => by simp [empty e] at he
    rw [exec_stepOnce_held live hb due held, bulkAdvance, horizon_none empty]
    rfl

/-! ### The fault state -/

/-- A command in the fault state, but the ones that return a value (R398; log 18). -/
theorem execCommand_faulted {s : State} (hf : s.fault ≠ none) :
    ∀ {i : Instr}, (rowOf i).format = .cmd → i.wellFormed = true → i ≠ .reset → i ≠ .isPaused → i ≠ .anyEventDue →
      (∀ n, i ≠ .advance n) → exec i s = .next s
  | .schedule _ _, _, _, _, _, _, _ | .reschedule _ _, _, _, _, _, _, _ | .deschedule _, _, _, _, _, _, _
  | .scheduleAt _ _, _, _, _, _, _, _ | .pause, _, _, _, _, _, _ | .resume, _, _, _, _, _, _ =>
    unlessFaulted_faulted hf _
  | .setKey _ _ _, _, key, _, _, _, _ => (if_pos key).trans (unlessFaulted_faulted hf _)
  | .stepOnce, _, _, _, _, _, _ => runLoop_faulted (.inl rfl) hf
  | .runFrame, _, _, _, _, _, _ => runLoop_faulted (.inr (.inl rfl)) hf
  | .runInstruction, _, _, _, _, _, _ => runLoop_faulted (.inr (.inr rfl)) hf
  | .reset, _, _, notReset, _, _, _ => absurd rfl notReset
  | .isPaused, _, _, _, notPaused, _, _ => absurd rfl notPaused
  | .anyEventDue, _, _, _, _, notDue, _ => absurd rfl notDue
  | .advance n, _, _, _, _, _, notAdvance => absurd rfl (notAdvance n)

/-- Settles O51: every kind of instruction stands behind the gate of the fault state. -/
theorem faultStateIsFrozen : Obligations.FaultStateIsFrozen := by
  refine ⟨fun i s hf wellFormed notReset notPaused notDue notAdvance => ?_, fun s hf => ⟨rfl, ⟨_, rfl⟩, fun n => ?_⟩⟩
  · cases instrKind i with
    | busop hb => exact (exec_of_isBusop hb s).trans (unlessFaulted_faulted hf _)
    | read bank r => exact (exec_readRow bank r s).trans (unlessFaulted_faulted hf _)
    | write bank r => exact (exec_writeRow bank r s).trans (unlessFaulted_faulted hf _)
    | command hc => exact execCommand_faulted hf hc wellFormed notReset notPaused notDue notAdvance
    | event e => exact (exec_eventRow e s).trans (unlessFaulted_faulted hf _)
  · exact if_pos (Option.isSome_iff_ne_none.2 hf)

end Sys2Proof.Machine
end

section
/-! SUPPORT. The bus arbiter: how a step takes the word it finds, the grant, the wait states, the requests that make no
access, and the request a granted STEP performs. -/

namespace Sys2Proof.Machine

/-! ### A step by the word it finds -/

theorem step_of_empty {s : State} (h : s.inbox = []) : step s = .next s := by
  unfold step
  split
  · rfl
  · simp_all

/-- A word that spells an instruction is held at the port or performed (R180). -/
theorem step_of_ok {s : State} {p : Packet} {rest : List Packet} {i : Instr} (hs : s.inbox = p :: rest)
    (hd : decode p = .ok i) :
    step s = if mustWait i (takeWord rest s) then holdBusop p (takeWord rest s) else exec i (takeWord rest s) := by
  simp [step, hs, hd]

/-- Only a bus operation waits: in a live block, without the grant or behind words held (R180, R193; log 13). -/
theorem mustWait_iff (i : Instr) (s : State) :
    mustWait i s = true ↔ isBusop i = true ∧ s.fault = none ∧ (granted s = false ∨ s.port ≠ []) := by
  simp [mustWait, and_assoc]

/-- The grant does not read the waiting words (R193). -/
theorem granted_takeWord (rest : List Packet) (s : State) : granted (takeWord rest s) = granted s :=
  granted_congr rfl rfl rfl rfl rfl rfl

theorem anyEventDue_eq_false_iff (s : State) : anyEventDue s = false ↔ NoneDueBy (s.committed + s.ahead) s := by
  rw [← Bool.not_eq_true, anyEventDue_iff]
  simp [now]

/-- Settles O5: `mustWait` decides between the port and the row, and the grant is the conjunction of R193. -/
theorem stepRunsTheDecodedInstruction : Obligations.StepRunsTheDecodedInstruction := by
  refine ⟨⟨fun s => step_of_empty, fun s p rest i hs hd => ⟨fun taken => ?_, fun busop live waits => ?_⟩⟩,
    fun s => ?_⟩
  · have free : ¬ mustWait i (takeWord rest s) = true := by
      rw [mustWait_iff, granted_takeWord]
      rintro ⟨busop, live, waits⟩
      rcases taken with notBusop | faulted | ⟨granted, port⟩
      · simp [notBusop] at busop
      · exact faulted live
      · exact waits.elim (by simp [granted]) fun held => held port
    rw [step_of_ok hs hd, if_neg free]
    rfl
  · have waiting : mustWait i (takeWord rest s) = true := by
      rw [mustWait_iff, granted_takeWord]
      exact ⟨busop, live, waits⟩
    rw [step_of_ok hs hd, if_pos waiting]
    rfl
  · rw [granted_iff, anyEventDue_eq_false_iff]
    simp [busBlock]

/-! ### Wait states -/

/-- R181: the banks of one speed, and those that `memsel` speeds up. -/
theorem speedOf_uniformBank {memsel : Bool} {a : Addr} :
    (0x40 ≤ a.toNat / 2 ^ 16 ∧ a.toNat / 2 ^ 16 ≤ 0x7F → speedOf memsel a = .slow) ∧
    (0xC0 ≤ a.toNat / 2 ^ 16 → speedOf memsel a = if memsel = true then .fast else .slow) := by
  have bound := a.isLt
  refine ⟨fun h => ?_, fun h => ?_⟩ <;> simp (disch := omega) only [speedOf, if_pos, if_neg]

/-- R181: a system bank, by the offset. -/
theorem speedOf_systemBank {memsel : Bool} {a : Addr}
    (h : a.toNat / 2 ^ 16 < 0x40 ∨ (0x80 ≤ a.toNat / 2 ^ 16 ∧ a.toNat / 2 ^ 16 < 0xC0)) :
    (a.toNat % 2 ^ 16 ≤ 0x1FFF → speedOf memsel a = .slow) ∧
    (0x2000 ≤ a.toNat % 2 ^ 16 ∧ a.toNat % 2 ^ 16 ≤ 0x3FFF → speedOf memsel a = .fast) ∧
    (0x4000 ≤ a.toNat % 2 ^ 16 ∧ a.toNat % 2 ^ 16 ≤ 0x41FF → speedOf memsel a = .xslow) ∧
    (0x4200 ≤ a.toNat % 2 ^ 16 ∧ a.toNat % 2 ^ 16 ≤ 0x5FFF → speedOf memsel a = .fast) ∧
    (0x6000 ≤ a.toNat % 2 ^ 16 ∧ a.toNat % 2 ^ 16 ≤ 0x7FFF → speedOf memsel a = .slow) ∧
    (0x8000 ≤ a.toNat % 2 ^ 16 →
      speedOf memsel a = if 0x80 ≤ a.toNat / 2 ^ 16 ∧ memsel = true then .fast else .slow) := by
  refine ⟨fun o => ?_, fun o => ?_, fun o => ?_, fun o => ?_, fun o => ?_, fun o => ?_⟩ <;>
    simp (disch := omega) only [speedOf, if_pos, if_neg]

/-- Settles O15: the cost of each region of `speedOf`. -/
theorem waitStates : Obligations.WaitStates := by
  intro s a bank off system
  have cost {r : Speed} (h : speedOf s.memsel a = r) : waitState s a = speedCost s.cfg r := congrArg (speedCost s.cfg) h
  have choice {c : Prop} [Decidable c] (h : speedOf s.memsel a = if c then .fast else .slow) :
      waitState s a = if c then s.cfg.wsFast else s.cfg.wsSlow := (cost h).trans (apply_ite (speedCost s.cfg) c _ _)
  obtain ⟨slowBank, upperBank⟩ := speedOf_uniformBank (memsel := s.memsel) (a := a)
  have systemBank (h : system) := speedOf_systemBank (memsel := s.memsel) (a := a) h
  refine ⟨fun h => cost (slowBank h), fun h => choice (upperBank h), fun h o => ?_, fun h o => ?_, fun h o => ?_,
    fun h o => ?_, fun h o => ?_, fun h o => ?_⟩ <;> obtain ⟨r1, r2, r3, r4, r5, r6⟩ := systemBank h
  · exact cost (r1 o)
  · exact cost (r2 o)
  · exact cost (r3 o)
  · exact cost (r4 o)
  · exact cost (r5 o)
  · exact choice (r6 o)

/-! ### The requests of the CPU port -/

/-- Settles O18: each request at its gate. -/
theorem idleHaltStopAck : Obligations.IdleHaltStopAck := fun _ live =>
  ⟨unlessFaulted_live live _, unlessFaulted_live live _, unlessFaulted_live live _, unlessFaulted_live live _⟩

/-- A request's word, wherever the CPU presents it, is decoded as a BUSOP (R121, R180). -/
theorem decode_requestWord (w : BitVec 36) : decode ⟨.busop, w.setWidth 64⟩ = decodeBusop (w.setWidth 64) :=
  decode_busop (by rw [BitVec.toNat_setWidth]; exact Nat.lt_of_le_of_lt (Nat.mod_le _ _) w.isLt)

/-- A granted STEP that takes no interrupt is the row of the request presented, and then the CPU goes on (R197). -/
theorem exec_stepOnce_presented {i : Instr} {s t : State} (hb : brokenInvariant s = none) (hg : granted s = true)
    (untaken : takeInterrupt s = s) (hd : decodeBusop ((presented s).word.setWidth 64) = .ok i)
    (ht : exec i s = .next t) (live : Live t) : exec .stepOnce s = .next (cpuAdvance t) ∧ RequestsKept s t := by
  have kept := performOp_requests i s
  rw [performOp_of_exec (isBusop_of_decodeBusop hd) ((granted_iff s).1 hg).1 live ht] at kept
  refine ⟨?_, kept.2⟩
  rw [exec_stepOnce_request hb hg (untaken.symm ▸ hd), untaken, ht, cpuGoesOn_next live]

/-- Settles O19: a granted STEP is the row of the request presented, which leaves the CPU's requests for it to go on. -/
theorem stepPerformsTheRequest : Obligations.StepPerformsTheRequest := by
  have load (a : Addr) : wordKind (busWord 2 a 0) ≠ 0 := by rw [wordKind_busWord]; decide
  refine ⟨fun s t r rest i hb hg hd ht live => ?_, fun s t hb hg hp hs live => ⟨fun he ht => ?_, fun low he ht =>
      ⟨Config.cpuEntry (t.cpuByte ++ low), ?_⟩,
    fun code native mask pc he untaken ht => ⟨Config.cpuNext code t.cpuByte, ?_⟩⟩⟩
  · rw [decode_requestWord] at hd
    refine ⟨fun hp => ?_, fun hp hs => ?_⟩
    · obtain ⟨stepped, kept⟩ := exec_stepOnce_presented hb hg (takeInterrupt_of_port (by simp [hp]))
        (presented_port hp ▸ hd) ht live
      rw [stepped, cpuAdvance_of_port (kept.port.trans hp)]
    · obtain ⟨stepped, kept⟩ := exec_stepOnce_presented hb hg (takeInterrupt_of_script (by simp [hs]))
        (presented_script hp hs ▸ hd) ht live
      rw [stepped, cpuAdvance_of_script (kept.port.trans hp) (kept.script.trans hs)]
  · exact exec_stepOnce_engine hb hg hp hs he (load 0x00FFFC) (decode_busWord 0x00FFFC 0).2.1 live ht
  · exact exec_stepOnce_engine hb hg hp hs he (load 0x00FFFD) (decode_busWord 0x00FFFD 0).2.1 live ht
  · have request : presented s = engineRequest (.boundary code native mask pc) := he ▸ presented_engine hp hs
    obtain ⟨stepped, kept⟩ := exec_stepOnce_presented hb hg (takeInterrupt_of_none untaken)
      (request ▸ (decode_busWord pc 0).1) ht live
    rw [stepped, cpuAdvance_of_engine (kept.port.trans hp) (kept.script.trans hs), kept.engine, he]
    rfl

end Sys2Proof.Machine
end

section
/-! SUPPORT. A stopped CPU through every step: what leaves `cpuState` alone, and what the run loop does without the
grant. -/

namespace Sys2Proof.Machine

/-- The CPU is stopped (R191, R437). -/
abbrev Stopped (s : State) : Prop := s.cpuState = .stopped

/-- Every end of a part of an operation leaves the CPU stopped, a block fault too. -/
abbrev StoppedRun {α : Type} (r : Run α) : Prop := Run.Sat Stopped Stopped r

theorem Stopped.of_unlessFaulted {s t : State} {r : Run Unit} (h : Stopped s) (ht : unlessFaulted s r = .next t)
    (hr : StoppedRun r) : Stopped t := by
  rcases unlessFaulted_next ht with rfl | ⟨-, ht⟩
  · exact h
  · exact hr.of_next ht

theorem Stopped.of_cpu {s t : State} (h : Stopped s) (k : CpuKeeps s t) : Stopped t := by
  have kept : t.cpuState = s.cpuState := by have e := congrArg State.cpuState k.rest; exact e
  exact kept.trans h

theorem Stopped.of_callback {s t : State} (h : Stopped s) (k : CallbackKeeps s t) : Stopped t := k.clock.1.trans h

theorem Stopped.of_access {s t : State} (h : Stopped s) (k : AccessKeeps s t) : Stopped t := by
  have kept : t.cpuState = s.cpuState := by have e := congrArg State.cpuState k; exact e
  exact kept.trans h

/-! ### The run loop -/

theorem granted_of_stopped {s : State} (h : Stopped s) : granted s = false := by
  rw [← Bool.not_eq_true, granted_iff, h]
  simp

theorem advance_stopped (n : Nat) {s : State} (h : Stopped s) : StoppedRun (advance n s) :=
  (advance_ends n s).mono (fun _ k => k.1.trans h) fun _ k => k.1.trans h

/-- A stopped CPU neither wakes nor has its request performed: a run-loop step fires what is due or charges it in bulk
(R197). -/
theorem runStep_stopped {s : State} (h : Stopped s) : StoppedRun (runStep s) := by
  have asleep : ¬ (s.cpuState == .waiting && wakeCondition s) = true := by simp [h]
  have ungranted : ¬ (s.cpuState == .running && !busBlock s) = true := by simp [h]
  unfold runStep
  rw [if_neg asleep, if_neg ungranted]
  split
  · exact h
  split
  · exact h
  split
  · exact advance_stopped _ h
  · rename_i hd
    exact (bulkAdvance_ends (Bool.eq_false_iff.2 hd)).mono (fun _ k => k.1.trans h) fun _ k => k.1.trans h

/-! ### Instructions -/

theorem execAdvance_stopped {n : BitVec 48} {s t : State} (h : Stopped s) (ht : execAdvance n s = .next t) :
    Stopped t := by
  unfold execAdvance at ht
  split at ht
  · cases ht; exact h
  · have ends := advance_stopped n.toNat h
    refine Run.Sat.of_next (P := Stopped) ?_ ht
    cases hr : advance n.toNat s <;> rw [hr] at ends <;> exact ends

theorem execRunFrame_stopped {s t : State} (h : Stopped s) (ht : execRunFrame s = .next t) : Stopped t := by
  unfold execRunFrame at ht
  split at ht
  · cases ht; exact h
  · exact (frameLoop_sat (fun _ => runStep_stopped) callFuel { s with frameDone := false } h).of_next ht

theorem execRunInstruction_stopped {s t : State} (h : Stopped s) (ht : execRunInstruction s = .next t) :
    Stopped t := by
  unfold execRunInstruction at ht
  split at ht
  · cases ht; exact h
  · rw [if_pos (by simp [h])] at ht
    exact (runStep_stopped h).of_next ht

theorem execSetKey_stopped {bit : BitVec 4} {port : BitVec 1} {pressed : Bool} {s t : State} (h : Stopped s)
    (ht : execSetKey bit port pressed s = .next t) : Stopped t := by
  unfold execSetKey at ht
  split at ht
  · exact h.of_unlessFaulted ht h
  · cases ht

/-- No command but RESET runs a stopped CPU (R437). -/
theorem execCommand_stopped {s t : State} (h : Stopped s) :
    ∀ {i : Instr}, (rowOf i).format = .cmd → i ≠ .reset → exec i s = .next t → Stopped t
  | .schedule _ _, _, _, ht | .reschedule _ _, _, _, ht | .deschedule _, _, _, ht | .scheduleAt _ _, _, _, ht
  | .pause, _, _, ht | .resume, _, _, ht => h.of_unlessFaulted ht h
  | .anyEventDue, _, _, ht | .isPaused, _, _, ht => by cases ht; exact h
  | .advance _, _, _, ht => execAdvance_stopped h ht
  | .stepOnce, _, _, ht => (runStep_stopped h).of_next ht
  | .runFrame, _, _, ht => execRunFrame_stopped h ht
  | .runInstruction, _, _, ht => execRunInstruction_stopped h ht
  | .setKey _ _ _, _, _, ht => execSetKey_stopped h ht
  | .reset, _, notReset, _ => absurd rfl notReset

/-- A bus operation taken at once while the CPU is stopped finds the fault state: in a live block it waits (R180,
R193). -/
theorem faulted_of_busop {i : Instr} {s : State} (h : Stopped s) (busop : isBusop i = true)
    (free : mustWait i s = false) : s.fault ≠ none := fun live =>
  Bool.eq_false_iff.1 free ((mustWait_iff i s).2 ⟨busop, live, .inl (granted_of_stopped h)⟩)

/-- An instruction that a step performs, but a RESET, leaves a stopped CPU stopped. -/
theorem exec_stopped {i : Instr} {s t : State} (h : Stopped s) (free : mustWait i s = false) (notReset : i ≠ .reset)
    (ht : exec i s = .next t) : Stopped t := by
  cases instrKind i with
  | busop hb =>
    rw [exec_of_isBusop hb, unlessFaulted_faulted (faulted_of_busop h hb free)] at ht
    cases ht
    exact h
  | read bank r =>
    rw [exec_readRow] at ht
    exact h.of_unlessFaulted ht (h.of_cpu ((blockRead_keeps r s).1.drive _))
  | write bank r =>
    rw [exec_writeRow] at ht
    exact h.of_unlessFaulted ht (h.of_cpu (blockWrite_keeps _ _ r s).1)
  | command hc => exact execCommand_stopped h hc notReset ht
  | event e =>
    rw [exec_eventRow] at ht
    exact h.of_unlessFaulted ht ((fireEvent_keeps e s).mono (fun _ => h.of_callback) fun _ => h.of_callback)

/-- A word that spells no instruction is at most the router's access (R123). -/
theorem noInstruction_stopped {e : DecodeError} {s t : State} (h : Stopped s) (ht : noInstruction e s = .next t) :
    Stopped t := by
  unfold noInstruction at ht
  split at ht
  · refine h.of_unlessFaulted ht ?_
    split
    · exact (routerMemWrite_sat _ _ s).mono (fun _ k => h.of_access k.1) fun _ k => h.of_access k.1
    · exact Run.Sat.bind (routerMemRead_sat _ s) (fun _ _ k => h.of_access k.1) fun _ k => h.of_access k.1
  · cases ht

/-- Settles O21: while the CPU is stopped nothing is granted, so a bus operation is held at the port and the run loop
charges cycles; no other word but a RESET touches `cpuState`. -/
theorem stoppedUntilReset : Obligations.StoppedUntilReset := by
  intro s t ht h noReset
  rcases step_next ht with ⟨-, rfl⟩ | ⟨p, rest, hp, hw⟩
  · exact h
  have taken : Stopped (takeWord rest s) := h
  rcases hw with ⟨-, -, -, held⟩ | ⟨i, hd, free, performed⟩ | ⟨e, -, none⟩
  · exact Run.Sat.of_next (runStep_stopped (by exact taken)) held
  · exact exec_stopped taken free (fun reset => noReset p (by simp [hp]) (reset ▸ hd)) performed
  · exact noInstruction_stopped taken none

end Sys2Proof.Machine
end

section
/-! SUPPORT. The start and the end of a stall, the callbacks that only write a flag, and RUN_FRAME over the tick that
enters vertical blank. -/

namespace Sys2Proof.Machine

/-! ### Stalls -/

/-- Settles O41: EV_STALL is scheduled at the end of the stall, and then a queued EV_DMA at its new time. -/
theorem stallBegins : Obligations.StallBegins := by
  refine fun s len => ⟨stallBegin_zero s, fun hl => ?_⟩
  have start : (if s.stallActive = true then max s.stallUntil s.committed else s.committed) = stallStart s := rfl
  intro t
  rw [start]
  cases hd : (event s .dma).queued with
  | false =>
    have ht : t = scheduleAt .stall (stallStart s + len)
        { s with stallUntil := stallStart s + len, stallActive := true } := stallBegin_idle hl hd
    have others (e : EventId) (he : e ≠ .stall) : event t e = event s e := ht ▸ event_scheduleAt_other _ _ he
    rw [ht] at others ⊢
    exact ⟨rfl, rfl, rfl, rfl, nofun, fun _ => others .dma (by decide), fun e he _ => others e he, rfl⟩
  | true =>
    have ht : t = scheduleAt .dma ((event s .dma).when + len) (scheduleAt .stall (stallStart s + len)
        { s with stallUntil := stallStart s + len, stallActive := true }) := stallBegin_dma hl hd
    have others (e : EventId) (hs : e ≠ .stall) (hd : e ≠ .dma) : event t e = event s e :=
      ht ▸ (event_scheduleAt_other _ _ hd).trans (event_scheduleAt_other _ _ hs)
    rw [ht] at others ⊢
    exact ⟨rfl, rfl, rfl, rfl, fun _ => ⟨rfl, rfl⟩, nofun, others, rfl⟩

/-! ### Events that write a flag -/

/-- EV_IRQ in mode %00 leaves the queue and does no more (R421). -/
theorem fireEvent_irq_off {s : State} (ha : s.ahead = 0) (hm : irqMode s = 0) :
    fireEvent .irq s = .ok () { deschedule .irq s with current := none } := by
  have mode : ¬ irqMode (setCurrent (some .irq) (deschedule .irq s)) ≠ 0 := not_not.2 hm
  have charged : ¬ (setCurrent (some .irq) (deschedule .irq s)).ahead ≠ 0 := not_not.2 ha
  rw [fireEvent, dispatch, if_neg charged]
  simp only [irqAssert, if_neg mode]
  rfl

theorem fireEvent_stall {s : State} (ha : s.ahead = 0) :
    fireEvent .stall s = .ok () { deschedule .stall s with stallActive := false, current := none } := by
  have charged : ¬ (setCurrent (some .stall) (deschedule .stall s)).ahead ≠ 0 := not_not.2 ha
  rw [fireEvent, dispatch, if_neg charged]
  rfl

theorem fireEvent_joy {s : State} (ha : s.ahead = 0) :
    fireEvent .joy s = .ok () { deschedule .joy s with autoJoyBusy := false, current := none } := by
  have charged : ¬ (setCurrent (some .joy) (deschedule .joy s)).ahead ≠ 0 := not_not.2 ha
  rw [fireEvent, dispatch, if_neg charged]
  rfl

/-- Settles O35: each EVENT word fires its event, and EV_IRQ asks for the mode first. -/
theorem flagEvents : Obligations.FlagEvents := by
  intro s live ha
  refine ⟨(exec_eventRow .irq s).trans ?_, (exec_eventRow .stall s).trans ?_, (exec_eventRow .joy s).trans ?_⟩ <;>
    rw [unlessFaulted_live live]
  · have same : s.nmitimen.extractLsb' 4 2 = irqMode s := rfl
    rw [same]
    split
    · rw [fireEvent_irq_off ha ‹_›]
      rfl
    · rw [fireEvent_irq ha ‹_›]
      rfl
  · rw [fireEvent_stall ha]
    rfl
  · rw [fireEvent_joy ha]
    rfl

/-! ### The tick into vertical blank -/

/-- A tick on its own time (R351, R367): the callback of a queued EV_VIDEO in a drain. -/
theorem fireEvent_video {s : State} (ha : s.ahead = 0) (hq : (event s .video).queued = true)
    (hw : (event s .video).when ≤ s.committed) :
    fireEvent .video s =
      callbackDone
        ((dotActions (event s .video).when (advancePosition (setCurrent (some .video) (deschedule .video s)))).bind
          fun _ u => .ok () (scheduleAt .video ((event s .video).when + u.cfg.dotCycles)
            (irqCompare (event s .video).when u))) := by
  have ownTime : s.committed - (s.committed - (event s .video).when) = (event s .video).when := by omega
  have charged : ¬ (setCurrent (some .video) (deschedule .video s)).ahead ≠ 0 := not_not.2 ha
  rw [fireEvent_of_queued hq, dispatch, if_neg charged]
  simp only [videoTick, setCurrent_committed, deschedule_committed, ownTime]

/-- With no action at dot 0, the actions of the first dot of vertical blank are its entry alone (R353, R362). -/
theorem dotActions_vblankEnter (t0 : Nat) {s : State} (hd : s.dot = 0) (hv : s.scanline = s.cfg.vblankLine)
    (visible : 0 < s.cfg.vblankLine) (only : OnlyDot s.cfg 0 7) : dotActions t0 s = .ok () (vblankEnter s) := by
  have off : 0 ∉ actionDots s.cfg := fun h => by
    obtain ⟨j, hj⟩ := List.mem_iff_getElem?.1 h
    have range : j < 7 := (List.getElem?_eq_some_iff.1 hj).1
    exact absurd ((only j range).1 hj) (by omega)
  have line : s.cfg.vblankLine ≠ 0 := by omega
  simp only [actionDots, List.mem_cons, List.not_mem_nil, or_false, not_or] at off
  obtain ⟨clear, init, oam, joy, refresh, blank, burst⟩ := off
  simp [dotActions, actionIf, Run.bind, hd, hv, line, clear, oam, joy, refresh, blank]

/-- The position at the start of vertical blank (R352, R362). -/
def atVblankStart (s : State) : State := { s with dot := 0, scanline := s.cfg.vblankLine }

theorem advancePosition_vblank {s : State} (hv : s.cfg.vblankLine < s.cfg.lines) (hd : s.dot + 1 = s.cfg.dots)
    (hs : s.scanline + 1 = s.cfg.vblankLine) : advancePosition s = atVblankStart s := by
  have notLast : ¬ s.scanline + 1 = s.cfg.lines := by omega
  rw [advancePosition, if_pos hd, if_neg notLast, hs]
  rfl

/-- The state that the tick into vertical blank leaves, EV_VIDEO queued for the next dot (R362, R367). -/
def afterVblankTick (s : State) : State :=
  scheduleAt .video ((event s .video).when + s.cfg.dotCycles)
    (setCurrent none (vblankEnter (atVblankStart (deschedule .video s))))

theorem fireEvent_vblankTick {s : State} (ha : s.ahead = 0) (hq : (event s .video).queued = true)
    (hw : (event s .video).when ≤ s.committed) (hv : s.cfg.Valid) (hd : s.dot + 1 = s.cfg.dots)
    (hs : s.scanline + 1 = s.cfg.vblankLine) (hm : irqMode s = 0) (only : OnlyDot s.cfg 0 7) :
    fireEvent .video s = .ok () (afterVblankTick s) := by
  obtain ⟨-, -, ⟨visible, lines⟩, -⟩ := hv
  have mode : irqMode (vblankEnter (atVblankStart (setCurrent (some .video) (deschedule .video s)))) = 0 := hm
  have entered := dotActions_vblankEnter (event s .video).when
    (s := atVblankStart (setCurrent (some .video) (deschedule .video s))) rfl rfl visible only
  have moved := advancePosition_vblank (s := setCurrent (some .video) (deschedule .video s)) lines hd hs
  rw [fireEvent_video ha hq hw, moved, entered, Run.bind, irqCompare_off _ mode]
  rfl

/-- Once the tick alone in the queue has fired, nothing is due before the next dot (R367). -/
theorem dueEvent_afterVblankTick {s : State} (alone : ∀ e, (event s e).queued = true → e = .video)
    (next : s.committed < (event s .video).when + s.cfg.dotCycles) : dueEvent (afterVblankTick s) = none := by
  refine (dueEvent_none_iff _).2 fun e he => ?_
  by_cases video : e = .video
  · subst video
    exact next
  · have same : event (afterVblankTick s) e = event s e :=
      (event_scheduleAt_other _ _ video).trans (event_deschedule_other s video)
    exact absurd (alone e (same ▸ he)) video

/-- R362, R417: the whole state at the entry of vertical blank, the NMI edge in it. -/
theorem vblankEnter_eq (s : State) :
    vblankEnter s = { s with
      vblank := true, nmiFlag := true, nmiRequest := s.nmiRequest || (nmiEnable s && !s.nmiPrev),
      nmiPrev := nmiEnable s, frameCounter := s.frameCounter + 1, frameDone := true } := by
  have line : nmiEnable { s with vblank := true, nmiFlag := true } = nmiEnable s := rfl
  simp only [vblankEnter, nmiEdgeEval, line, Bool.and_true]

/-! ### RUN_FRAME -/

/-- A run-loop step with an event due commits the uncommitted cycles and drains (R197, R168). -/
theorem runStep_due {s : State} (live : Live s) (hb : brokenInvariant s = none) (hd : anyEventDue s = true) :
    runStep s = drain (drainFuel (commit s.ahead s)) (commit s.ahead s) := by
  rw [← advance_covered (Nat.le_refl _)]
  simp [runStep, live, hb, hd]

/-- The loop of RUN_FRAME goes on with a run-loop step (R392). -/
theorem frameLoop_step {k : Nat} {s : State} (live : Live s) (hf : s.frameDone = false) :
    frameLoop (k + 1) s = (runStep s).bind fun _ t => frameLoop k t := by
  simp [frameLoop, live, hf]

/-- The loop of RUN_FRAME ends with the frame (R392). -/
theorem frameLoop_done (k : Nat) {s : State} (hf : s.frameDone = true) : frameLoop k s = .ok () s := by
  cases k <;> simp [frameLoop, hf]

/-- The state in which RUN_FRAME starts its loop (R392). -/
def frameStart (s : State) : State := { s with frameDone := false }

theorem exec_runFrame_live {s : State} (live : Live s) (hp : s.paused = false) :
    exec .runFrame s = (frameLoop callFuel (frameStart s)).outcome := by
  simp [exec, execRunFrame, live, hp, frameStart]

/-- No clause of R67 speaks of `frameDone`. -/
theorem brokenInvariant_frameStart (s : State) : brokenInvariant (frameStart s) = brokenInvariant s := by
  have order : queue (frameStart s) = queue s := queue_congr rfl rfl
  have due : anyEventDue (frameStart s) = anyEventDue s := anyEventDue_congr rfl rfl rfl
  have bulk : chargesInBulk (frameStart s) = chargesInBulk s := by rw [chargesInBulk, due]; rfl
  rw [brokenInvariant, order, bulk]
  rfl

/-- Settles O53: the one step drains the tick into vertical blank, after which nothing is due and the frame is done. -/
theorem runFrameCompletes : Obligations.RunFrameCompletes := by
  intro s live hb hv hp alone reached next hd hs hm only
  have queued : (event s .video).queued = true := (alone .video).2 rfl
  let start := commit s.ahead (frameStart s)
  have first : dueEvent start = some .video :=
    dueEvent_of_only queued reached fun e other he => absurd ((alone e).1 he) other
  have fires : fireEvent .video start = .ok () (afterVblankTick start) :=
    fireEvent_vblankTick rfl queued reached hv hd hs hm only
  have quiet : dueEvent (afterVblankTick start) = none := dueEvent_afterVblankTick (fun e => (alone e).1) next
  obtain ⟨k, fuel⟩ := drainFuel_eq start
  have drained : drain (drainFuel start) start = .ok () (afterVblankTick start) := by
    rw [fuel, drain_some first, fires, Run.bind, drain_none quiet]
  have due : anyEventDue (frameStart s) = true := (anyEventDue_iff _).2 ⟨.video, queued, reached⟩
  have step : runStep (frameStart s) = .ok () (afterVblankTick start) :=
    (runStep_due (by exact live) ((brokenInvariant_frameStart s).trans hb) due).trans drained
  obtain ⟨n, calls⟩ : ∃ n, callFuel = n + 1 := ⟨2 ^ 64 - 1, by decide⟩
  rw [exec_runFrame_live live hp, calls, frameLoop_step (by exact live) rfl, step, Run.bind, frameLoop_done _ rfl,
    afterVblankTick, vblankEnter_eq]
  rfl

end Sys2Proof.Machine
end

section
/-! SUPPORT. The control and status ports: the rows of the registers that keep the bus or ignore the store, the counter
latch and its reads, the halves of a 9-bit target, and the fields of the status bytes. A byte put together from fields is
taken apart by `BitVec.getLsbD_append` before `simp` runs, which would add up the widths the lemma is stated with. -/

namespace Sys2Proof.Machine

/-! ### Rows by what their register does -/

/-- R123, R220: a read row leaves the byte read on the bus of the state the read ends in. -/
theorem exec_readRow_of_eq {b : Byte} {s t : State} (bank : Byte) (live : Live s) (r : Reg)
    (read : blockRead r s = (b, t)) : exec (readRow bank r) s = .next { t with openBus := b } := by
  rw [(rowsAreRegisterAccesses bank r s live).1, read]

/-- R123, R220: a write row stores the byte on the bus. -/
theorem exec_writeRow_of_eq {s t : State} (bank : Byte) (live : Live s) (r : Reg)
    (write : blockWrite (bank ++ BitVec.ofNat 16 r.offset) s.openBus r s = t) : exec (writeRow bank r) s = .next t := by
  rw [(rowsAreRegisterAccesses bank r s live).2, write]

/-- Settles O24: each row is that of a register whose read is `readOpenBus` or whose write is `ignoreWrite`. -/
theorem accessesWithoutEffect : Obligations.AccessesWithoutEffect := by
  refine ⟨fun bank c low s live => ?_, fun bank c low s live => ?_⟩
  · have read (r : Reg) (h : blockRead r s = readOpenBus s) : exec (readRow bank r) s = .next s :=
      exec_readRow_of_eq bank live r h
    exact ⟨read (.port .nmitimen) rfl, read (.port .wrio) rfl, read (.port .htimel) rfl, read (.port .htimeh) rfl,
      read (.port .vtimel) rfl, read (.port .vtimeh) rfl, read (.port .mdmaen) rfl, read (.port .hdmaen) rfl,
      read (.port .memsel) rfl, read (.chan c .gapC) rfl, read (.chan c .gapD) rfl, read (.chan c .gapE) rfl,
      read (.tail low) rfl⟩
  · have write (r : Reg) (h : blockWrite (bank ++ BitVec.ofNat 16 r.offset) s.openBus r s = ignoreWrite s.openBus s) :
        exec (writeRow bank r) s = .next s := exec_writeRow_of_eq bank live r h
    exact ⟨write (.port .slhv) rfl, write (.port .ophct) rfl, write (.port .opvct) rfl, write (.port .stat78) rfl,
      write (.port .rdnmi) rfl, write (.port .timeup) rfl, write (.port .hvbjoy) rfl, write (.port .joy1l) rfl,
      write (.port .joy1h) rfl, write (.port .joy2l) rfl, write (.port .joy2h) rfl, write (.port .joy3l) rfl,
      write (.port .joy3h) rfl, write (.port .joy4l) rfl, write (.port .joy4h) rfl, write (.chan c .gapC) rfl,
      write (.chan c .gapD) rfl, write (.chan c .gapE) rfl, write (.tail low) rfl⟩

/-! ### The counter latch -/

/-- R221, R365: SLHV latches the counters while bit 7 of WRIO is set; its byte is the next free one. -/
theorem readSlhv_latching {s : State} (h : s.wrio.getLsbD 7 = true) :
    readSlhv s = (Config.freeByte s.draws, { latchCounters s with draws := s.draws + 1 }) := by
  rw [readSlhv, if_pos h]
  rfl

theorem readSlhv_not_latching {s : State} (h : ¬ s.wrio.getLsbD 7 = true) :
    readSlhv s = (Config.freeByte s.draws, { s with draws := s.draws + 1 }) := by
  rw [readSlhv, if_neg h]
  rfl

/-- R222: OPHCT returns the low byte of its latch, then bit 8 with seven free bits, in turn. -/
theorem readOphct_low {s : State} (h : s.ophctFF = false) :
    readOphct s = (s.latchH.setWidth 8, { s with ophctFF := true }) := by
  rw [readOphct, h]
  rfl

theorem readOphct_high {s : State} (h : s.ophctFF = true) :
    readOphct s = (latchHighByte (draw7 s).1 s.latchH, { s with ophctFF := false, draws := s.draws + 1 }) := by
  rw [readOphct, h]
  rfl

/-- R223: OPVCT, as OPHCT. -/
theorem readOpvct_low {s : State} (h : s.opvctFF = false) :
    readOpvct s = (s.latchV.setWidth 8, { s with opvctFF := true }) := by
  rw [readOpvct, h]
  rfl

theorem readOpvct_high {s : State} (h : s.opvctFF = true) :
    readOpvct s = (latchHighByte (draw7 s).1 s.latchV, { s with opvctFF := false, draws := s.draws + 1 }) := by
  rw [readOpvct, h]
  rfl

/-- R141: the lowest bit of the high read is bit 8 of the latch. -/
theorem latchHighByte_bit0 (free : BitVec 7) (latch : BitVec 9) :
    (latchHighByte free latch).getLsbD 0 = latch.getLsbD 8 := by
  simp only [latchHighByte, BitVec.getLsbD_append]
  simp

/-- R140: the fields of STAT78 around its free bit. -/
theorem stat78Byte_fields (s : State) (free : BitVec 1) :
    (stat78Byte s free).getLsbD 7 = s.field ∧ (stat78Byte s free).getLsbD 6 = s.latchFlag ∧
    (stat78Byte s free).getLsbD 4 = false ∧ (stat78Byte s free).extractLsb' 0 4 = s.cfg.ppu2Version := by
  have version : (stat78Byte s free).extractLsb' 0 4 = s.cfg.ppu2Version := BitVec.extractLsb'_append_eq_right
  rw [version]
  simp only [stat78Byte, BitVec.getLsbD_append]
  simp

/-- Settles O23: each row is its register's read, by its condition; the free bytes are the next ones drawn. -/
theorem counterLatchReads : Obligations.CounterLatchReads := by
  refine ⟨fun bank s live => ⟨Config.freeByte s.draws, ?_⟩, fun bank s live => ?_, fun bank s live => ?_⟩
  · split
    · exact exec_readRow_of_eq bank live (.port .slhv) (readSlhv_latching ‹_›)
    · exact exec_readRow_of_eq bank live (.port .slhv) (readSlhv_not_latching ‹_›)
  · exact ⟨fun h => exec_readRow_of_eq bank live (.port .ophct) (readOphct_low h),
      fun h => ⟨_, latchHighByte_bit0 _ s.latchH, exec_readRow_of_eq bank live (.port .ophct) (readOphct_high h)⟩,
      fun h => exec_readRow_of_eq bank live (.port .opvct) (readOpvct_low h),
      fun h => ⟨_, latchHighByte_bit0 _ s.latchV, exec_readRow_of_eq bank live (.port .opvct) (readOpvct_high h)⟩⟩
  · obtain ⟨field, latched, zero, version⟩ := stat78Byte_fields s (draw1 s).1
    exact ⟨_, field, latched, zero, version, exec_readRow_of_eq bank live (.port .stat78) rfl⟩

/-! ### Writes of the control ports -/

/-- Settles O25: the mode of the new value decides whether EV_IRQ is descheduled before the edge is evaluated. -/
theorem nmitimenWrite : Obligations.NmitimenWrite := by
  intro bank s live
  refine exec_writeRow_of_eq bank live (.port .nmitimen) ?_
  have mode : irqMode { s with nmitimen := s.openBus } = s.openBus.extractLsb' 4 2 := rfl
  rw [blockWrite, writeNmitimen, mode]
  split <;> rfl

/-- R227: a fall of bit 7 of WRIO latches the counters. -/
theorem writeWrio_eq (v : Byte) (s : State) : writeWrio v s =
    if s.wrio.getLsbD 7 = true ∧ v.getLsbD 7 = false then latchCounters { s with wrio := v }
    else { s with wrio := v } := by
  simp [writeWrio]

/-- R228, R230: the low half of a 9-bit target. -/
theorem withLow9_halves (target : BitVec 9) (v : Byte) :
    (withLow9 target v).extractLsb' 0 8 = v ∧ (withLow9 target v).getLsbD 8 = target.getLsbD 8 := by
  refine ⟨BitVec.extractLsb'_append_eq_right, ?_⟩
  simp only [withLow9, BitVec.getLsbD_append]
  simp

/-- R229, R231: bit 8 of a 9-bit target. -/
theorem withBit8_halves (target : BitVec 9) (v : Byte) :
    (withBit8 target v).extractLsb' 0 8 = target.extractLsb' 0 8 ∧ (withBit8 target v).getLsbD 8 = v.getLsbD 0 := by
  refine ⟨BitVec.extractLsb'_append_eq_right, ?_⟩
  simp only [withBit8, BitVec.getLsbD_append]
  simp

/-- Settles O26: each row is its register's write of the byte on the bus; a target is taken apart by its halves. -/
theorem controlPortWrites : Obligations.ControlPortWrites := by
  refine ⟨fun bank s live => exec_writeRow_of_eq bank live (.port .wrio) (writeWrio_eq s.openBus s),
    fun bank s live => ⟨?_, ?_, ?_, ?_⟩, fun bank s live => ⟨?_, ?_⟩⟩
  · exact ⟨_, exec_writeRow_of_eq bank live (.port .htimel) rfl, withLow9_halves s.htime s.openBus⟩
  · exact ⟨_, exec_writeRow_of_eq bank live (.port .htimeh) rfl, withBit8_halves s.htime s.openBus⟩
  · exact ⟨_, exec_writeRow_of_eq bank live (.port .vtimel) rfl, withLow9_halves s.vtime s.openBus⟩
  · exact ⟨_, exec_writeRow_of_eq bank live (.port .vtimeh) rfl, withBit8_halves s.vtime s.openBus⟩
  · exact exec_writeRow_of_eq bank live (.port .hdmaen) rfl
  · exact exec_writeRow_of_eq bank live (.port .memsel) rfl

/-! ### Reads of the status ports -/

/-- R417: with the NMI flag clear the line is low: no request is raised, and the detector forgets the last one. -/
theorem nmiEdgeEval_of_flag_clear {s : State} (h : s.nmiFlag = false) :
    nmiEdgeEval s = { s with nmiPrev := false } := by
  simp [nmiEdgeEval, h]

/-- R236: RDNMI clears the NMI flag, and with it the edge detector's memory. -/
theorem readRdnmi_eq (s : State) : readRdnmi s = (rdnmiByte s, { s with nmiFlag := false, nmiPrev := false }) := by
  rw [readRdnmi, nmiEdgeEval_of_flag_clear rfl]

/-- R135: the fields of RDNMI. -/
theorem rdnmiByte_fields (s : State) : (rdnmiByte s).getLsbD 7 = s.nmiFlag ∧
    (rdnmiByte s).extractLsb' 4 3 = s.openBus.extractLsb' 4 3 ∧ (rdnmiByte s).extractLsb' 0 4 = s.cfg.cpuVersion := by
  refine ⟨?_, ?_, BitVec.extractLsb'_append_eq_right⟩
  · simp only [rdnmiByte, BitVec.getLsbD_append]
    simp
  · ext i hi
    simp only [rdnmiByte, BitVec.getElem_extractLsb', BitVec.getLsbD_append]
    simp [hi]

/-- R136: the fields of TIMEUP. -/
theorem timeupByte_fields (s : State) : (timeupByte s).getLsbD 7 = s.irqFlag ∧
    (timeupByte s).extractLsb' 0 7 = s.openBus.extractLsb' 0 7 := by
  refine ⟨?_, BitVec.extractLsb'_append_eq_right⟩
  simp only [timeupByte, BitVec.getLsbD_append]
  simp

/-- R137: the fields of HVBJOY. -/
theorem hvbjoyByte_fields (s : State) : (hvbjoyByte s).getLsbD 7 = s.vblank ∧ (hvbjoyByte s).getLsbD 6 = s.hblank ∧
    (hvbjoyByte s).extractLsb' 1 5 = s.openBus.extractLsb' 1 5 ∧ (hvbjoyByte s).getLsbD 0 = s.autoJoyBusy := by
  have bus : (hvbjoyByte s).extractLsb' 1 5 = s.openBus.extractLsb' 1 5 := by
    ext i hi
    simp only [hvbjoyByte, BitVec.getElem_extractLsb', BitVec.getLsbD_append]
    simp [hi]
  rw [bus]
  simp only [hvbjoyByte, BitVec.getLsbD_append]
  simp

/-- Settles O28: each row is its register's read, whose byte is taken apart by its fields. -/
theorem statusReads : Obligations.StatusReads := by
  refine ⟨fun bank s live => ?_, fun bank s live => ⟨?_, ?_⟩⟩
  · obtain ⟨flag, bus, version⟩ := rdnmiByte_fields s
    exact ⟨_, flag, bus, version, exec_readRow_of_eq bank live (.port .rdnmi) (readRdnmi_eq s)⟩
  · obtain ⟨flag, bus⟩ := timeupByte_fields s
    exact ⟨_, flag, bus, exec_readRow_of_eq bank live (.port .timeup) rfl⟩
  · obtain ⟨vertical, horizontal, bus, busy⟩ := hvbjoyByte_fields s
    exact ⟨_, vertical, horizontal, bus, busy, exec_readRow_of_eq bank live (.port .hvbjoy) rfl⟩

/-! ### Reads of the joypad results -/

/-- R239: a result's byte, once the auto-joypad is done. -/
theorem readJoy_latched (n : Fin 4) (high : Bool) {s : State} (h : s.autoJoyBusy = false) :
    readJoy n high s = (if high then highByte s.joy[n] else lowByte s.joy[n], s) := by
  simp [readJoy, h]

/-- R239: a free byte while the auto-joypad is busy. -/
theorem readJoy_busy (n : Fin 4) (high : Bool) {s : State} (h : s.autoJoyBusy = true) :
    readJoy n high s = (Config.freeByte s.draws, { s with draws := s.draws + 1 }) := by
  rw [readJoy, if_pos h, draw8]

/-- Settles O29: each row reads its byte of its result; a high byte is by definition that of the pair shifted. -/
theorem joyReads : Obligations.JoyReads := by
  intro bank s live
  have read (p : PortReg) {b : Byte} {t : State} (h : blockRead (.port p) s = (b, t)) :=
    exec_readRow_of_eq bank live (.port p) h
  refine ⟨fun done => ?_, fun busy => ⟨Config.freeByte s.draws, ?_⟩⟩
  · have latched (n : Fin 4) (high : Bool) := readJoy_latched n high done
    exact ⟨read .joy1l (latched 0 false), read .joy1h (latched 0 true), read .joy2l (latched 1 false),
      read .joy2h (latched 1 true), read .joy3l (latched 2 false), read .joy3h (latched 2 true),
      read .joy4l (latched 3 false), read .joy4h (latched 3 true)⟩
  · have free (n : Fin 4) (high : Bool) := readJoy_busy n high busy
    exact ⟨read .joy1l (free 0 false), read .joy1h (free 0 true), read .joy2l (free 1 false),
      read .joy2h (free 1 true), read .joy3l (free 2 false), read .joy3h (free 2 true), read .joy4l (free 3 false),
      read .joy4h (free 3 true)⟩

end Sys2Proof.Machine
end

section
/-! SUPPORT. The arming of the GDMA sequencer by a store to MDMAEN, and the selection of its next channel by the checks
of R295 in their order. -/

namespace Sys2Proof.Machine

/-! ### The MDMAEN write -/

theorem dvd_alignUp (x a : Nat) : a ∣ alignUp x a := Nat.dvd_mul_left a _

/-- R291: with `le_alignUp` and `dvd_alignUp`, `alignUp x a` is the least multiple of `a` not below `x`. -/
theorem alignUp_lt {a : Nat} (x : Nat) (ha : 1 ≤ a) : alignUp x a < x + a := by
  have floor : alignUp x a ≤ x + a - 1 := Nat.div_mul_le_self _ _
  omega

/-- R291: a zero value, or one stored while the sequencer runs, arms nothing. -/
theorem gdmaArm_stores {v : Byte} {s : State} (t cw : Nat) (h : v = 0 ∨ s.gdmaPhase ≠ .idle) :
    gdmaArm v t cw s = { s with mdmaen := v } :=
  if_neg fun ⟨nonzero, idle⟩ => h.elim nonzero fun busy => busy idle

theorem gdmaArm_starts {v : Byte} {s : State} (t cw : Nat) (nonzero : v ≠ 0) (idle : s.gdmaPhase = .idle) :
    gdmaArm v t cw s = scheduleAt .dma (alignUp (t + cw) s.cfg.dmaAlign + s.cfg.dmaInit)
      { s with mdmaen := v, gdmaActive := true, gdmaPhase := .select } :=
  if_pos ⟨nonzero, idle⟩

/-- Settles O27: the row is `gdmaArm` at the current time with the wait state of its own address, and the multiple is
`alignUp`. -/
theorem mdmaenWrite : Obligations.MdmaenWrite := by
  refine fun bank s live align => ⟨fun stores => ?_, fun nonzero idle =>
    ⟨_, dvd_alignUp _ _, le_alignUp _ align, alignUp_lt _ align, ?_⟩⟩
  · exact exec_writeRow_of_eq bank live (.port .mdmaen) (gdmaArm_stores _ _ stores)
  · exact exec_writeRow_of_eq bank live (.port .mdmaen) (gdmaArm_starts _ _ nonzero idle)

/-! ### The channel of the selection -/

/-- R292: the channels are tried from the highest index down. -/
theorem highestEnabled_eq_some {m : Byte} {c : Chan} (enabled : m.getLsbD c.val = true)
    (highest : ∀ d : Chan, c < d → m.getLsbD d.val = false) : highestEnabled m = some c := by
  have every : ∀ d : Chan, d ∈ allChannels.reverse := by decide
  have falling : allChannels.reverse.Pairwise (· > ·) := by decide
  obtain ⟨above, below, split⟩ := List.append_of_mem (every c)
  rw [split, List.pairwise_append] at falling
  obtain ⟨-, -, greater⟩ := falling
  rw [highestEnabled, List.find?_eq_some_iff_append]
  refine ⟨enabled, above, below, split, fun d hd => ?_⟩
  rw [highest d (greater d hd c List.mem_cons_self), Bool.not_false]

/-- R295: of the first `n` register bytes, the lowest one not written is found. -/
theorem firstUnwritten_range_eq_some {ch : Channel} {n r : Nat} (hr : r < n) (unwritten : isWritten ch r = false)
    (below : ∀ q < r, isWritten ch q = true) : firstUnwritten ch (List.range n) = some r := by
  rw [firstUnwritten, List.find?_range_eq_some]
  exact ⟨by rw [unwritten, Bool.not_false], List.mem_range.2 hr, fun q hq => by rw [below q hq]; rfl⟩

theorem firstUnwritten_range_eq_none {ch : Channel} {n : Nat} (written : ∀ r < n, isWritten ch r = true) :
    firstUnwritten ch (List.range n) = none := by
  rw [firstUnwritten, List.find?_range_eq_none]
  exact fun r hr => by rw [written r hr]; rfl

/-! ### The checks of the selection -/

/-- R301: with no channel enabled the sequence ends. -/
theorem gdmaSelect_noneEnabled (t0 : Nat) {s : State} (h : s.mdmaen = 0) :
    gdmaSelect t0 s = .ok () { s with gdmaPhase := .idle, gdmaActive := false } := by
  have noChannel : highestEnabled s.mdmaen = none := by rw [h]; rfl
  rw [gdmaSelect, noChannel]

section
variable {s : State} {c : Chan} (t0 : Nat) (highest : highestEnabled s.mdmaen = some c)
include highest

/-- R295: a channel that HDMA still runs is refused. -/
theorem gdmaSelect_hdmaLive (shared : s.hdmaen.getLsbD c.val = true ∧ (channel s c).hdmaTerminated = false) :
    gdmaSelect t0 s = .refused (.gdmaHdmaSameChannel c) := by
  simp only [gdmaSelect, highest, shared, Bool.not_false, Bool.and_self, if_true]

variable (free : ¬ (s.hdmaen.getLsbD c.val = true ∧ (channel s c).hdmaTerminated = false))
include free

/-- R47, R295: so is one with a register byte not written since reset. -/
theorem gdmaSelect_unwritten {r : Nat} (unwritten : firstUnwritten (channel s c) [0, 1, 2, 3, 4, 5, 6] = some r) :
    gdmaSelect t0 s = .refused (.unwritten c r) := by
  simp only [gdmaSelect, highest, Bool.and_eq_true, Bool.not_eq_true', free, if_false, unwritten]

variable (written : firstUnwritten (channel s c) [0, 1, 2, 3, 4, 5, 6] = none)
include written

/-- R295: the last check is the pattern's. -/
theorem gdmaSelect_patternFaults (faults : patternFaults (channel s c) = true) :
    gdmaSelect t0 s = raiseFault .dmaPattern (.pattern c (patternOf (channel s c))) s := by
  simp only [gdmaSelect, highest, Bool.and_eq_true, Bool.not_eq_true', free, if_false, written, faults, if_true]

/-- R295: past every check the channel is selected. -/
theorem gdmaSelect_selects (works : ¬ patternFaults (channel s c) = true) :
    gdmaSelect t0 s = .ok () (scheduleAt .dma (t0 + s.cfg.dmaChannel)
      { s with gdmaChannel := c, gdmaIndex := 0, gdmaPhase := .transfer }) := by
  simp only [gdmaSelect, highest, Bool.and_eq_true, Bool.not_eq_true', free, if_false, written, works,
    Bool.false_eq_true]

end

/-- R294: in SELECT the step is the selection at the event's own time. -/
theorem exec_evDma_select {s : State} {r : Run Unit} (can : CanFire .dma s) (select : s.gdmaPhase = .select)
    (ends : gdmaSelect (event s .dma).when (setCurrent (some .dma) (deschedule .dma s)) = r) :
    exec .evDma s = (callbackDone r).outcome := by
  simp only [exec_evDma can, select, ends]

/-- Settles O42: the step is `gdmaSelect` of the highest enabled channel, by its checks in their order. -/
theorem gdmaSelection : Obligations.GdmaSelection := by
  refine fun s can select => ⟨fun ends => exec_evDma_select can select (gdmaSelect_noneEnabled _ ends),
    fun c enabled above => ?_⟩
  have highest : highestEnabled (setCurrent (some .dma) (deschedule .dma s)).mdmaen = some c :=
    highestEnabled_eq_some enabled above
  intro ch live p
  refine ⟨fun shared => exec_evDma_select can select (gdmaSelect_hdmaLive _ highest shared),
    fun free r hr unwritten below => ?_, fun free all => ?_⟩
  · have first : firstUnwritten ch [0, 1, 2, 3, 4, 5, 6] = some r :=
      firstUnwritten_range_eq_some (n := 7) (Nat.lt_succ_of_le hr) unwritten below
    exact exec_evDma_select can select (gdmaSelect_unwritten _ highest free first)
  · have written : firstUnwritten ch [0, 1, 2, 3, 4, 5, 6] = none :=
      firstUnwritten_range_eq_none (n := 7) fun r hr => all r (Nat.le_of_lt_succ hr)
    have pattern : patternFaults ch = true ↔ p = 4 ∨ p = 5 := patternFaults_iff ch
    refine ⟨fun faults => ?_, fun h4 h5 => ?_⟩
    · exact exec_evDma_select can select (gdmaSelect_patternFaults _ highest free written (pattern.2 faults))
    · have works : ¬ patternFaults ch = true := fun faults => (pattern.1 faults).elim h4 h5
      exact exec_evDma_select can select (gdmaSelect_selects _ highest free written works)

end Sys2Proof.Machine
end

section
/-! SUPPORT. The tick at a DMA dot, as the reload or the burst it runs, and the channels such a reload or burst goes
through: the disabled ones it ends, the stall over the ones it handles. -/

namespace Sys2Proof.Machine

/-! ### The tick at a DMA dot -/

/-- The action dots, each by its name. -/
theorem OnlyDot.named {p : Config.Params} {d k : Nat} (only : OnlyDot p d k) :
    (p.hblankClearDot = d ↔ 0 = k) ∧ (p.hdmaInitDot = d ↔ 1 = k) ∧ (p.oamReloadDot = d ↔ 2 = k) ∧
      (p.joyDot = d ↔ 3 = k) ∧ (p.refreshDot = d ↔ 4 = k) ∧ (p.hblankDot = d ↔ 5 = k) ∧ (p.hdmaLineDot = d ↔ 6 = k) := by
  have dot (j : Nat) (hj : j < 7) : (actionDots p)[j]? = some d ↔ j = k := only j hj
  simp only [actionDots] at dot
  exact ⟨by simpa using dot 0, by simpa using dot 1, by simpa using dot 2, by simpa using dot 3, by simpa using dot 4,
    by simpa using dot 5, by simpa using dot 6⟩

/-- Nothing comes after a part that ends a list of actions. -/
theorem Run.bind_ok_unit (r : Run Unit) : (r.bind fun _ s => .ok () s) = r := by cases r <;> rfl

/-- A part that went on did so at its every step. -/
theorem Run.bind_eq_ok {α β : Type} {r : Run α} {k : α → State → Run β} {b : β} {t : State} (h : r.bind k = .ok b t) :
    ∃ a u, r = .ok a u ∧ k a u = .ok b t := by
  cases r with
  | ok a u => exact ⟨a, u, rfl, h⟩
  | raised _ => cases h
  | stuck _ => cases h
  | refused _ => cases h

/-- R353, R355: at its dot of scanline 0 the per-frame reload is the only action. -/
theorem dotActions_initDot (t0 : Nat) {s : State} (hd : s.dot ≠ 0) (only : OnlyDot s.cfg s.dot 1)
    (first : s.scanline = 0) : dotActions t0 s = hdmaInit s := by
  obtain ⟨clear, init, oam, joy, refresh, blank, line⟩ := only.named
  simpa [dotActions, actionIf, hd, first, eq_comm (a := s.dot), clear, init, oam, joy, refresh, blank, line, Run.bind]
    using Run.bind_ok_unit (hdmaInit s)

/-- R324, R353: at its dot of a visible scanline the burst is the only action. -/
theorem dotActions_lineDot (t0 : Nat) {s : State} (hd : s.dot ≠ 0) (only : OnlyDot s.cfg s.dot 6)
    (visible : s.scanline < s.cfg.vblankLine) : dotActions t0 s = hdmaLine s := by
  obtain ⟨clear, init, oam, joy, refresh, blank, line⟩ := only.named
  simp [dotActions, actionIf, hd, visible, eq_comm (a := s.dot), clear, init, oam, joy, refresh, blank, line, Run.bind]

/-- The state that the actions of a tick within a scanline start from (R351). -/
def tickMoved (s : State) : State :=
  { s with
    events := { s.events with video := { s.events.video with queued := false } }, dot := s.dot + 1,
    current := some .video }

/-- A tick within a scanline: its actions at the new position, then the comparator and the requeueing (R351). -/
theorem exec_evVideo_moved {s : State} (can : CanFire .video s) (inLine : s.dot + 1 ≠ s.cfg.dots) :
    exec .evVideo s = (callbackDone ((dotActions (event s .video).when (tickMoved s)).bind fun _ u =>
      .ok () (scheduleAt .video ((event s .video).when + u.cfg.dotCycles)
        (irqCompare (event s .video).when u)))).outcome := by
  have moved : advancePosition (setCurrent (some .video) (deschedule .video s)) = tickMoved s := if_neg inLine
  rw [exec_evVideo can, moved]

/-- R351, R367: a tick whose actions raise nothing, the comparator off, ends with EV_VIDEO queued for the next dot. -/
theorem exec_evVideo_of_actions {s v : State} (can : CanFire .video s) (off : irqMode s = 0)
    (inLine : s.dot + 1 ≠ s.cfg.dots) (actions : dotActions (event s .video).when (tickMoved s) = .ok () v) :
    exec .evVideo s =
      .next (scheduleAt .video ((event s .video).when + s.cfg.dotCycles) { v with current := none }) := by
  obtain ⟨kept, -⟩ : DotKeeps (tickMoved s) v ∧ _ := by
    simpa [actions] using dotActions_sat (event s .video).when (tickMoved s)
  have cfg : v.cfg = s.cfg := by have e := congrArg State.cfg kept.rest; exact e
  have mode : irqMode v = irqMode s := by have e := congrArg irqMode kept.rest; exact e
  rw [exec_evVideo_moved can inLine, actions, Run.bind, irqCompare_off _ (mode.trans off), ← cfg]
  rfl

/-- A tick that leaves the block live has done all its actions (R411). -/
theorem actions_of_exec_evVideo {s t : State} (can : CanFire .video s) (inLine : s.dot + 1 ≠ s.cfg.dots)
    (ends : exec .evVideo s = .next t) (live : Live t) :
    ∃ v, dotActions (event s .video).when (tickMoved s) = .ok () v := by
  have sat := dotActions_sat (event s .video).when (tickMoved s)
  rw [exec_evVideo_moved can inLine] at ends
  cases actions : dotActions (event s .video).when (tickMoved s) with
  | ok _ v => exact ⟨v, rfl⟩
  | raised v =>
    rw [actions] at ends sat
    cases ends
    obtain ⟨-, f, fault, -⟩ := sat
    exact absurd (fault.symm.trans live) (by simp)
  | stuck _ => rw [actions] at ends; cases ends
  | refused _ => rw [actions] at ends; cases ends

/-! ### Channel after channel -/

theorem forChannels_append (f : Chan → Burst → State → Run Burst) (l r : List Chan) : ∀ (b : Burst) (s : State),
    forChannels f (l ++ r) b s = (forChannels f l b s).bind fun b1 s1 => forChannels f r b1 s1 := by
  induction l with
  | nil => exact fun b s => rfl
  | cons c rest ih =>
    intro b s
    simp only [List.cons_append, forChannels, ih]
    cases f c b s <;> rfl

/-- A channel that the reload finds disabled (R321). -/
def ended (ch : Channel) : Channel := { ch with hdmaTerminated := true, hdmaDoTransfer := false }

/-- The state with the channels of `l` ended. -/
def endChannels (l : List Chan) (s : State) : State :=
  { s with channels := Vector.ofFn fun d => if d ∈ l then ended (channel s d) else channel s d }

theorem channel_endChannels (l : List Chan) (s : State) (d : Chan) :
    channel (endChannels l s) d = if d ∈ l then ended (channel s d) else channel s d := by
  simp [channel, endChannels]

theorem endChannels_nil (s : State) : endChannels [] s = s := by
  have same : (endChannels [] s).channels = s.channels := Vector.ext fun i hi => by simp [endChannels, channel]
  exact congrArg (fun v => ({ s with channels := v } : State)) same

theorem endChannels_cons (c : Chan) (l : List Chan) (s : State) :
    endChannels l (setChannel c (ended (channel s c)) s) = endChannels (c :: l) s := by
  have same : (endChannels l (setChannel c (ended (channel s c)) s)).channels = (endChannels (c :: l) s).channels := by
    refine Vector.ext fun i hi => ?_
    simp only [endChannels, Vector.getElem_ofFn, channel_setChannel, List.mem_cons]
    by_cases here : (⟨i, hi⟩ : Chan) = c
    · simp [here, ended]
    · simp [here]
  exact congrArg (fun v => ({ s with channels := v } : State)) same

/-- R321: a disabled channel ends. -/
theorem hdmaInitChannel_disabled {c : Chan} (b : Burst) {s : State} (off : s.hdmaen.getLsbD c.val = false) :
    hdmaInitChannel c b s = .ok b (setChannel c (ended (channel s c)) s) := if_neg (Bool.eq_false_iff.1 off)

theorem forChannels_disabled (b : Burst) (l : List Chan) : ∀ (s : State), (∀ c ∈ l, s.hdmaen.getLsbD c.val = false) →
    forChannels hdmaInitChannel l b s = .ok b (endChannels l s) := by
  induction l with
  | nil => exact fun s _ => congrArg (Run.ok b) (endChannels_nil s).symm
  | cons c rest ih =>
    intro s off
    have others : ∀ d ∈ rest, (setChannel c (ended (channel s c)) s).hdmaen.getLsbD d.val = false :=
      fun d hd => off d (List.mem_cons_of_mem c hd)
    rw [forChannels, hdmaInitChannel_disabled b (off c List.mem_cons_self), ← endChannels_cons]
    exact ih _ others

/-- A channel as the reload restarts it at its table (R321). -/
def restarted (ch : Channel) : Channel :=
  { ch with a2a := ch.a1t, written := ch.written ||| 0x300#12, hdmaTerminated := false }

/-- R321: an enabled channel is taken from a GDMA, restarted and reloaded. -/
theorem hdmaInitChannel_enabled {c : Chan} (b : Burst) {s : State} (on : s.hdmaen.getLsbD c.val = true)
    (table : firstUnwritten (channel s c) [2, 3] = none) :
    hdmaInitChannel c b s = (hdmaReload c (setChannel c (restarted (channel s c)) (disableGdma c s))).bind
      fun cost t => .ok ⟨true, b.cost + cost⟩ t := by
  have marks : (channel s c).written ||| 0x300#12 = (channel s c).written ||| (1#12 <<< 8) ||| (1#12 <<< 9) := by
    rw [BitVec.or_assoc]; rfl
  simp only [hdmaInitChannel, on, table, if_true, restarted, marks]
  rfl

/-- R321: it is refused without its table address. -/
theorem hdmaInitChannel_unwritten {c : Chan} {r : Nat} (b : Burst) {s : State} (on : s.hdmaen.getLsbD c.val = true)
    (lacks : firstUnwritten (channel s c) [2, 3] = some r) : hdmaInitChannel c b s = .refused (.unwritten c r) := by
  simp only [hdmaInitChannel, on, lacks, if_true]

/-- What the per-frame reload does with a channel, active if it is enabled, and the cost `x` (R321). -/
structure InitStep (c : Chan) (active : Bool) (x : Nat) (s t : State) : Prop where
  enabled : active = s.hdmaen.getLsbD c.val
  ends    : active = false → x = 0 ∧ t = setChannel c (ended (channel s c)) s
  written : active = true → isWritten (channel s c) 2 = true ∧ isWritten (channel s c) 3 = true
  reloads : active = true → hdmaReload c (setChannel c (restarted (channel s c)) (disableGdma c s)) = .ok x t

theorem initStep_of_hdmaInitChannel {c : Chan} {b b1 : Burst} {s t : State} (h : hdmaInitChannel c b s = .ok b1 t) :
    ∃ active x, b1 = ⟨b.any || active, b.cost + x⟩ ∧ InitStep c active x s t := by
  cases on : s.hdmaen.getLsbD c.val with
  | false =>
    rw [hdmaInitChannel_disabled b on] at h
    cases h
    exact ⟨false, 0, by simp, on.symm, fun _ => ⟨rfl, rfl⟩, nofun, nofun⟩
  | true =>
    cases table : firstUnwritten (channel s c) [2, 3] with
    | some r => rw [hdmaInitChannel_unwritten b on table] at h; cases h
    | none =>
      rw [hdmaInitChannel_enabled b on table] at h
      obtain ⟨x, u, reload, h⟩ := Run.bind_eq_ok h
      cases h
      have written : isWritten (channel s c) 2 = true ∧ isWritten (channel s c) 3 = true := by
        simpa [firstUnwritten] using table
      exact ⟨true, x, by simp, on.symm, nofun, fun _ => written, fun _ => reload⟩

/-- Is a channel live for a burst (R324)? -/
def channelLive (c : Chan) (s : State) : Bool := s.hdmaen.getLsbD c.val && !(channel s c).hdmaTerminated

theorem channelLive_iff (c : Chan) (s : State) :
    channelLive c s = true ↔ s.hdmaen.getLsbD c.val = true ∧ (channel s c).hdmaTerminated = false := by
  rw [channelLive, Bool.and_eq_true, Bool.not_eq_true']

/-- What a burst does with a channel, active if it is live, and the cost `x` (R324). -/
structure LineStep (c : Chan) (active : Bool) (x : Nat) (s t : State) : Prop where
  live    : active = channelLive c s
  skips   : active = false → x = 0 ∧ t = s
  handles : active = true → ∃ m y z, hdmaUnitStep c s = .ok y m ∧ hdmaCount c m = .ok z t ∧ x = s.cfg.hdmaChannel + y + z

/-- R324: a channel that is not live is passed over. -/
theorem hdmaLineChannel_dead {c : Chan} (b : Burst) {s : State} (dead : channelLive c s = false) :
    hdmaLineChannel c b s = .ok b s := if_neg (Bool.eq_false_iff.1 dead)

theorem lineStep_of_hdmaLineChannel {c : Chan} {b b1 : Burst} {s t : State} (h : hdmaLineChannel c b s = .ok b1 t) :
    ∃ active x, b1 = ⟨b.any || active, b.cost + x⟩ ∧ LineStep c active x s t := by
  cases live : channelLive c s with
  | false =>
    rw [hdmaLineChannel_dead b live] at h
    cases h
    exact ⟨false, 0, by simp, live.symm, fun _ => ⟨rfl, rfl⟩, nofun⟩
  | true =>
    have handled : hdmaLineChannel c b s = _ := if_pos live
    rw [handled] at h
    obtain ⟨y, m, unit, h⟩ := Run.bind_eq_ok h
    obtain ⟨z, u, count, h⟩ := Run.bind_eq_ok h
    cases h
    exact ⟨true, s.cfg.hdmaChannel + y + z, by simp, live.symm, nofun, fun _ => ⟨m, y, z, unit, count, rfl⟩⟩

/-- `t` follows `s` by a reload or a burst: its states and costs, channel after channel, each as `Step` has it, and its
stall over all of them (R330, R331). -/
def BurstChain (Step : Chan → Bool → Nat → State → State → Prop) (s t : State) : Prop :=
  ∃ (states : Nat → State) (active : Nat → Bool) (cost : Nat → Nat), states 0 = s ∧
    (∀ i ≤ 8, TransferKeeps s (states i)) ∧
    (∀ c : Chan, Step c (active c.val) (cost c.val) (states c.val) (states (c.val + 1))) ∧
    t = burstStall ⟨(List.range 8).any active, ((List.range 8).map cost).sum⟩ (states 8)

theorem burst_chain {f : Chan → Burst → State → Run Burst} {Step : Chan → Bool → Nat → State → State → Prop}
    (keeps : ∀ c b s, TransferSat s (f c b s))
    (step : ∀ {c b b1 s t}, f c b s = .ok b1 t → ∃ active x, b1 = ⟨b.any || active, b.cost + x⟩ ∧ Step c active x s t)
    {s t : State}
    (h : ((forChannels f allChannels ⟨false, 0⟩ s).bind fun b u => .ok () (burstStall b u)) = .ok () t) :
    BurstChain Step s t := by
  obtain ⟨b, u, run, ends⟩ := Run.bind_eq_ok h
  cases ends
  obtain ⟨states, bursts, start, nothing, last, total, run⟩ := forChannels_chain _ _ _ _ _ run
  have run (i : Nat) (hi : i < 8) : f ⟨i, hi⟩ (bursts i) (states i) = .ok (bursts (i + 1)) (states (i + 1)) := by
    have same : ∀ c : Chan, allChannels[c.val] = c := by decide
    exact congrArg (f · (bursts i) (states i)) (same ⟨i, hi⟩) ▸ run i hi
  have found (i : Nat) : ∃ a x, ∀ hi : i < 8, bursts (i + 1) = ⟨(bursts i).any || a, (bursts i).cost + x⟩ ∧
      Step ⟨i, hi⟩ a x (states i) (states (i + 1)) := by
    by_cases hi : i < 8
    · obtain ⟨a, x, handled⟩ := step (run i hi)
      exact ⟨a, x, fun _ => handled⟩
    · exact ⟨false, 0, fun h => absurd h hi⟩
  choose active cost found using found
  have sums (i : Nat) (hi : i ≤ 8) : bursts i = ⟨(List.range i).any active, ((List.range i).map cost).sum⟩ := by
    induction i with
    | zero => exact nothing
    | succ i ih => simp [(found i hi).1, ih (by omega), List.range_succ]
  have kept (i : Nat) (hi : i ≤ 8) : TransferKeeps s (states i) := by
    induction i with
    | zero => exact start ▸ .refl s
    | succ i ih =>
      have sat := keeps ⟨i, hi⟩ (bursts i) (states i)
      rw [run i hi] at sat
      exact (ih (by omega)).trans sat.1
  refine ⟨states, active, cost, start, kept, fun c => (found c.val c.isLt).2, ?_⟩
  rw [← sums 8 (Nat.le_refl 8)]
  exact (congrArg₂ burstStall total last).symm

theorem hdmaInit_chain {s t : State} (h : hdmaInit s = .ok () t) : BurstChain InitStep s t :=
  burst_chain hdmaInitChannel_sat initStep_of_hdmaInitChannel h

theorem hdmaLine_chain {s t : State} (h : hdmaLine s = .ok () t) : BurstChain LineStep s t :=
  burst_chain hdmaLineChannel_sat lineStep_of_hdmaLineChannel h

theorem any_range_eq_false {active : Nat → Bool} (h : ∀ c : Chan, active c.val = false) :
    (List.range 8).any active = false := by
  rw [List.any_eq_false]
  exact fun i hi => Bool.eq_false_iff.1 (h ⟨i, List.mem_range.1 hi⟩)

theorem any_range_eq_true {active : Nat → Bool} {c : Chan} (h : active c.val = true) :
    (List.range 8).any active = true :=
  List.any_eq_true.2 ⟨c.val, List.mem_range.2 c.isLt, h⟩

/-! ### The channels a burst has not come to -/

/-- A part of an operation that goes on has left every channel but `c` alone. -/
abbrev OthersSat {α : Type} (c : Chan) (s : State) (r : Run α) : Prop :=
  Run.Sat (fun t => ∀ d, d ≠ c → channel t d = channel s d) (fun _ => True) r

theorem OthersSat.bind {α β : Type} {c : Chan} {s : State} {r : Run α} {k : α → State → Run β} (h : OthersSat c s r)
    (hk : ∀ a t, OthersSat c t (k a t)) : OthersSat c s (r.bind k) :=
  Run.Sat.bind h (fun a t kept => (hk a t).mono (fun _ g d hd => (g d hd).trans (kept d hd)) fun _ h => h) fun _ h => h

/-- Going on from an update of the channel. -/
theorem OthersSat.setChannel {α : Type} {c : Chan} {s : State} {r : Run α} (ch : Channel)
    (h : OthersSat c (setChannel c ch s) r) : OthersSat c s r :=
  h.mono (fun _ kept d hd => (kept d hd).trans (channel_setChannel_other ch s hd)) fun _ h => h

theorem OthersSat.of_access {α : Type} (c : Chan) {s : State} {r : Run α} {P Q : State → Prop}
    (h : Run.Sat (fun t => AccessKeeps s t ∧ P t) Q r) : OthersSat c s r :=
  h.mono (fun _ ⟨kept, _⟩ d _ => channel_congr (by have e := congrArg State.channels kept; exact e) d) fun _ _ => trivial

theorem OthersSat.ok {α : Type} (c : Chan) (a : α) (s : State) : OthersSat c s (.ok a s) := fun _ _ => rfl

theorem hdmaFetch_others (c : Chan) (s : State) : OthersSat c s (hdmaFetch c s) := by
  unfold hdmaFetch
  simp only
  split
  · trivial
  · exact OthersSat.bind (.of_access c (dmaRead_sat (Bool.eq_false_iff.2 ‹_›) s)) fun v t => .setChannel _ (.ok c v _)

theorem hdmaPointer_others (c : Chan) (s : State) : OthersSat c s (hdmaPointer c s) :=
  (hdmaFetch_others c s).bind fun _ t => (hdmaFetch_others c t).bind fun _ _ => .setChannel _ (.ok c () _)

theorem hdmaHeader_others (c : Chan) (h : Byte) (s : State) : OthersSat c s (hdmaHeader c h s) := by
  unfold hdmaHeader
  refine .setChannel (markWritten 10 { channel s c with ntrl := h }) ?_
  simp only
  split
  · exact .setChannel _ (.ok c _ _)
  · split
    · exact (hdmaPointer_others c _).bind fun _ _ => .setChannel _ (.ok c _ _)
    · exact .setChannel _ (.ok c _ _)

theorem hdmaReload_others (c : Chan) (s : State) : OthersSat c s (hdmaReload c s) := by
  unfold hdmaReload
  split
  · trivial
  · exact (hdmaFetch_others c s).bind fun h t => hdmaHeader_others c h t

theorem hdmaDataAddr_others (c : Chan) (s : State) : OthersSat c s (hdmaDataAddr c s) := by
  unfold hdmaDataAddr
  simp only
  split
  · split
    · trivial
    · exact .setChannel _ (.ok c _ _)
  · exact .setChannel _ (.ok c _ _)

theorem hdmaByte_others (c : Chan) (i : Nat) (s : State) : OthersSat c s (hdmaByte c i s) := by
  refine (hdmaDataAddr_others c s).bind fun a t => ?_
  split
  · trivial
  · exact .of_access c (moveByte_sat _ (Bool.eq_false_iff.2 ‹_›) _ t)

theorem hdmaBytes_others (c : Chan) (n : Nat) : ∀ (i : Nat) (s : State), OthersSat c s (hdmaBytes c i n s) := by
  induction n with
  | zero => exact fun i s => .ok c () s
  | succ n ih => exact fun i s => (hdmaByte_others c i s).bind fun _ t => ih (i + 1) t

theorem hdmaUnitStep_others (c : Chan) (s : State) : OthersSat c s (hdmaUnitStep c s) := by
  unfold hdmaUnitStep hdmaUnit
  simp only
  split
  · split
    · trivial
    · split
      · trivial
      · exact (hdmaBytes_others c _ 0 s).bind fun _ t => .ok c _ t
  · exact .ok c 0 s

theorem hdmaCount_others (c : Chan) (s : State) : OthersSat c s (hdmaCount c s) := by
  unfold hdmaCount
  refine .setChannel { channel s c with
    ntrl := (channel s c).ntrl - 1, hdmaDoTransfer := ((channel s c).ntrl - 1).getLsbD 7 } ?_
  simp only
  split
  · exact hdmaReload_others c _
  · exact .ok c 0 _

/-- A burst's handling of a channel leaves the others alone (R324). -/
theorem LineStep.others {c : Chan} {active : Bool} {x : Nat} {s t : State} (h : LineStep c active x s t) {d : Chan}
    (hd : d ≠ c) : channel t d = channel s d := by
  cases active with
  | false => rw [(h.skips rfl).2]
  | true =>
    obtain ⟨m, y, z, unit, count, -⟩ := h.handles rfl
    have unitKeeps := hdmaUnitStep_others c s
    have countKeeps := hdmaCount_others c m
    rw [unit] at unitKeeps
    rw [count] at countKeeps
    exact (countKeeps d hd).trans (unitKeeps d hd)

/-- A burst comes to each channel as it was before the burst (R331). -/
theorem channel_lineSteps {states : Nat → State} {active : Nat → Bool} {cost : Nat → Nat}
    (steps : ∀ c : Chan, LineStep c (active c.val) (cost c.val) (states c.val) (states (c.val + 1))) (c : Chan)
    (i : Nat) (hi : i ≤ c.val) : channel (states i) c = channel (states 0) c := by
  induction i with
  | zero => rfl
  | succ i ih =>
    have before : i < 8 := by omega
    have step : LineStep ⟨i, before⟩ (active i) (cost i) (states i) (states (i + 1)) := steps ⟨i, before⟩
    exact (step.others fun same => by simp [same] at hi).trans (ih (by omega))

/-! ### Line bursts -/

/-- R324: with no live channel a burst does nothing. -/
theorem hdmaLine_dead {s : State} (dead : ∀ c, channelLive c s = false) : hdmaLine s = .ok () s := by
  have through (l : List Chan) : forChannels hdmaLineChannel l ⟨false, 0⟩ s = .ok ⟨false, 0⟩ s := by
    induction l with
    | nil => rfl
    | cons c rest ih => rw [forChannels, hdmaLineChannel_dead _ (dead c), Run.bind, ih]
  rw [hdmaLine, through]
  rfl

/-- What handling its channels one after the other keeps of a burst's parameters, enables and time. -/
theorem TransferKeeps.constants {s t : State} (h : TransferKeeps s t) :
    t.cfg = s.cfg ∧ t.hdmaen = s.hdmaen ∧ t.committed = s.committed :=
  ⟨by have e := congrArg State.cfg h.rest; exact e, by have e := congrArg State.hdmaen h.rest; exact e,
    by have e := congrArg State.committed h.rest; exact e⟩

/-- The stall of a reload or a burst that handled a channel (R330). -/
theorem burstStall_any {n : Nat} {active : Nat → Bool} (h : (List.range n).any active = true) (x : Nat) (s : State) :
    burstStall ⟨(List.range n).any active, x⟩ s = stallBegin (s.cfg.hdmaOverhead + x) s := if_pos h

theorem burstStall_none {n : Nat} {active : Nat → Bool} (h : (List.range n).any active = false) (x : Nat) (s : State) :
    burstStall ⟨(List.range n).any active, x⟩ s = s := if_neg (Bool.eq_false_iff.1 h)

/-- R324, R330: a burst with a live channel stalls the CPU for the overhead and one channel's cost at least. -/
theorem hdmaLine_stalls {s t : State} (h : hdmaLine s = .ok () t) {c : Chan} (live : channelLive c s = true) :
    ∃ u len, t = stallBegin len u ∧ s.cfg.hdmaOverhead + s.cfg.hdmaChannel ≤ len ∧ u.committed = s.committed := by
  obtain ⟨states, active, cost, start, kept, steps, ends⟩ := hdmaLine_chain h
  obtain ⟨cfg, enabled, -⟩ := (kept c.val c.isLt.le).constants
  obtain ⟨cfgEnd, -, committed⟩ := (kept 8 (Nat.le_refl 8)).constants
  have reached : active c.val = true := by
    rw [(steps c).live, channelLive, enabled, channel_lineSteps steps c c.val (Nat.le_refl _), start]
    exact live
  obtain ⟨m, y, z, -, -, paid⟩ := (steps c).handles reached
  have part : cost c.val ≤ ((List.range 8).map cost).sum :=
    List.le_sum_of_mem (List.mem_map_of_mem (List.mem_range.2 c.isLt))
  rw [burstStall_any (any_range_eq_true reached), cfgEnd] at ends
  exact ⟨states 8, _, ends, by rw [cfg] at paid; omega, committed⟩

/-- R321: with no channel enabled the per-frame reload ends them all. -/
theorem hdmaInit_disabled {s : State} (off : s.hdmaen = 0) : hdmaInit s = .ok () (endChannels allChannels s) := by
  have disabled : ∀ c ∈ allChannels, s.hdmaen.getLsbD c.val = false := fun c _ => by rw [off]; exact BitVec.getLsbD_zero
  rw [hdmaInit, forChannels_disabled _ _ s disabled]
  rfl

theorem mem_allChannels : ∀ c : Chan, c ∈ allChannels := by decide

/-- Settles O49: the tick is the burst (`dotActions_lineDot`), the burst a chain of its channels (`hdmaLine_chain`). -/
theorem hdmaBursts : Obligations.HdmaBursts := by
  have tick {s : State} (only : OnlyDot s.cfg (s.dot + 1) 6) (visible : s.scanline < s.cfg.vblankLine) :
      dotActions (event s .video).when (tickMoved s) = hdmaLine (tickMoved s) :=
    dotActions_lineDot _ (Nat.succ_ne_zero _) only visible
  refine ⟨fun s can off inLine only visible => ⟨fun dead => ?_, fun c t live overhead ends alive => ?_⟩,
    fun s off => ⟨_, hdmaInit_disabled off, fun c => ?_, rfl⟩,
    fun s v can off inLine only visible burst => ?_, fun s t burst => ?_⟩
  · have dead' (c : Chan) : channelLive c (tickMoved s) = false :=
      Bool.eq_false_iff.2 fun h => dead c ((channelLive_iff c _).1 h)
    exact exec_evVideo_of_actions can off inLine ((tick only visible).trans (hdmaLine_dead dead'))
  · obtain ⟨v, actions⟩ := actions_of_exec_evVideo can inLine ends alive
    cases (exec_evVideo_of_actions can off inLine actions).symm.trans ends
    obtain ⟨u, len, rfl, enough, committed⟩ :=
      hdmaLine_stalls ((tick only visible).symm.trans actions) ((channelLive_iff c (tickMoved s)).2 live)
    have long : s.cfg.hdmaOverhead + s.cfg.hdmaChannel ≤ len := enough
    obtain ⟨stalled, ends, queued, due, -⟩ := (stallBegins u len).2 (by omega)
    have later : u.committed + len ≤ (stallBegin len u).stallUntil :=
      ends ▸ Nat.add_le_add_right (committed_le_stallStart u) len
    have time : (stallBegin len u).committed = u.committed := by
      have e := congrArg State.committed (stallBegin_keeps len u).rest
      exact e
    refine ⟨stalled, queued, due.trans ends.symm, ?_⟩
    calc (stallBegin len u).committed + s.cfg.hdmaOverhead + s.cfg.hdmaChannel
        ≤ u.committed + len := by omega
      _ ≤ (stallBegin len u).stallUntil := later
  · rw [channel_endChannels, if_pos (mem_allChannels c), ended]
  · exact exec_evVideo_of_actions can off inLine ((tick only visible).trans burst)
  · obtain ⟨states, active, cost, start, kept, steps, ends⟩ := hdmaLine_chain burst
    have active_iff (c : Chan) : active c.val = true ↔
        s.hdmaen.getLsbD c.val = true ∧ (channel (states c.val) c).hdmaTerminated = false := by
      rw [(steps c).live, channelLive_iff, (kept c.val c.isLt.le).constants.2.1]
    refine ⟨states, cost, start, fun c => ⟨fun dead => ?_, fun live => ?_⟩, fun dead => ?_, fun c live => ?_⟩
    · obtain ⟨free, same⟩ := (steps c).skips (Bool.eq_false_iff.2 fun h => dead ((active_iff c).1 h))
      exact ⟨same, free⟩
    · obtain ⟨m, y, z, unit, count, paid⟩ := (steps c).handles ((active_iff c).2 live)
      rw [(kept c.val c.isLt.le).constants.1] at paid
      refine ⟨m, y, z, fun idle => ?_, fun due => ?_, count, paid⟩
      · rw [hdmaUnitStep, idle] at unit
        cases unit
        exact ⟨rfl, rfl⟩
      · rwa [hdmaUnitStep, if_pos due] at unit
    · have idle (c : Chan) : active c.val = false := Bool.eq_false_iff.2 fun h => dead c ((active_iff c).1 h)
      rw [ends, burstStall_none (any_range_eq_false idle)]
    · rw [ends, burstStall_any (any_range_eq_true ((active_iff c).2 live)), (kept 8 (Nat.le_refl 8)).constants.1]

end Sys2Proof.Machine
end

section
/-! SUPPORT. The HDMA reload of a channel from a table in plain memory, as equations, and the per-frame reload. -/

namespace Sys2Proof.Machine

/-! ### The first register byte not written -/

theorem firstUnwritten_eq_none {ch : Channel} {rs : List Nat} (written : ∀ r ∈ rs, isWritten ch r = true) :
    firstUnwritten ch rs = none :=
  List.find?_eq_none.2 fun r hr => by simp [written r hr]

/-- Of rising register bytes, the lowest one not written is found (R321, R322). -/
theorem firstUnwritten_eq_some {ch : Channel} {rs : List Nat} {r : Nat} (rising : rs.Pairwise (· < ·)) (hr : r ∈ rs)
    (unwritten : isWritten ch r = false) (below : ∀ q ∈ rs, q < r → isWritten ch q = true) :
    firstUnwritten ch rs = some r := by
  obtain ⟨l, m, rfl⟩ := List.append_of_mem hr
  obtain ⟨-, -, less⟩ := List.pairwise_append.1 rising
  refine List.find?_eq_some_iff_append.2 ⟨by rw [unwritten]; rfl, l, m, rfl, fun q hq => ?_⟩
  rw [below q (List.mem_append_left _ hq) (less q hq r List.mem_cons_self)]
  rfl

/-! ### The reload of a channel -/

/-- The table address `k` bytes past a channel's cursor, within its bank (R322). -/
def tableAt (ch : Channel) (k : Half) : Addr := ch.a1b ++ (ch.a2a + k)

theorem tableAddr_eq_tableAt (ch : Channel) : tableAddr ch = tableAt ch 0 := by simp [tableAddr, tableAt, assemble]

/-- A table address in plain memory. -/
abbrev TablePlain (s : State) (a : Addr) : Prop := dmaRegWindow a = false ∧ regionKind s a = some .ram

/-- The byte of a table in plain memory. -/
def tableByte (s : State) (a : Addr) : Byte := readByte s.mem (location s a)

@[simp] theorem tableByte_setChannel (c : Chan) (ch : Channel) (s : State) (a : Addr) :
    tableByte (setChannel c ch s) a = tableByte s a := rfl

@[simp] theorem tableByte_driveBus (v : Byte) (s : State) (a : Addr) : tableByte (driveBus v s) a = tableByte s a := rfl

/-- R322: the table byte at the cursor, which moves past it. -/
theorem hdmaFetch_table {c : Chan} {s : State} (plain : TablePlain s (tableAt (channel s c) 0)) :
    hdmaFetch c s = .ok (tableByte s (tableAt (channel s c) 0)) (setChannel c
      { channel s c with a2a := (channel s c).a2a + 1 } (driveBus (tableByte s (tableAt (channel s c) 0)) s)) := by
  rw [← tableAddr_eq_tableAt] at plain ⊢
  exact hdmaFetch_plain plain.1 plain.2

/-- R322: the pointer's two bytes, low byte first. -/
theorem hdmaPointer_table {c : Chan} {s : State} (low : TablePlain s (tableAt (channel s c) 0))
    (high : TablePlain s (tableAt (channel s c) 1)) :
    hdmaPointer c s = .ok () (setChannel c
      { channel s c with
        a2a := (channel s c).a2a + 2,
        das := tableByte s (tableAt (channel s c) 1) ++ tableByte s (tableAt (channel s c) 0),
        written := (channel s c).written ||| (1#12 <<< 5) ||| (1#12 <<< 6) }
      (driveBus (tableByte s (tableAt (channel s c) 1)) s)) := by
  have next : tableAt { channel s c with a2a := (channel s c).a2a + 1 } 0 = tableAt (channel s c) 1 := by simp [tableAt]
  have past : (channel s c).a2a + 1 + 1 = (channel s c).a2a + 2 := BitVec.add_assoc _ _ _
  rw [hdmaPointer, hdmaFetch_table low, Run.bind, hdmaFetch_table (by rw [channel_setChannel_same, next]; exact high)]
  simp only [Run.bind, channel_setChannel_same, next, past, setChannel_driveBus, setChannel_setChannel, driveBus_driveBus,
    tableByte_setChannel, tableByte_driveBus, channel_driveBus, markWritten]

/-- R322, R329: a zero header ends the channel, any other header starts a direct one. -/
theorem hdmaHeader_noPointer {c : Chan} {h : Byte} {s : State} (single : h = 0 ∨ indirect (channel s c) = false) :
    hdmaHeader c h s = .ok s.cfg.hdmaHeader (setChannel c
      { channel s c with
        ntrl := h, written := (channel s c).written ||| (1#12 <<< 10),
        hdmaTerminated := (channel s c).hdmaTerminated || decide (h = 0), hdmaDoTransfer := decide (h ≠ 0) } s) := by
  by_cases zero : h = 0
  · simp [hdmaHeader, zero, markWritten]
  · have direct : indirect (markWritten 10 { channel s c with ntrl := h }) = false := single.resolve_left zero
    simp only [hdmaHeader, channel_setChannel_same, direct, Bool.false_eq_true, if_false,
      setChannel_setChannel, zero, decide_false, Bool.or_false, ne_eq, not_false_eq_true, decide_true]
    rfl

/-- R322: any other header of an indirect channel is followed by its pointer. -/
theorem hdmaHeader_pointer {c : Chan} {h : Byte} {s : State} (nonzero : h ≠ 0) (pointed : indirect (channel s c) = true)
    (low : TablePlain s (tableAt (channel s c) 0)) (high : TablePlain s (tableAt (channel s c) 1)) :
    hdmaHeader c h s = .ok (s.cfg.hdmaHeader + s.cfg.hdmaPointer) (setChannel c
      { channel s c with
        a2a := (channel s c).a2a + 2, ntrl := h,
        das := tableByte s (tableAt (channel s c) 1) ++ tableByte s (tableAt (channel s c) 0),
        written := (channel s c).written ||| (1#12 <<< 10) ||| (1#12 <<< 5) ||| (1#12 <<< 6), hdmaDoTransfer := true }
      (driveBus (tableByte s (tableAt (channel s c) 1)) s)) := by
  have pointed' : indirect (markWritten 10 { channel s c with ntrl := h }) = true := pointed
  have pointer := hdmaPointer_table (c := c) (s := setChannel c (markWritten 10 { channel s c with ntrl := h }) s)
    (by rw [channel_setChannel_same]; exact low) (by rw [channel_setChannel_same]; exact high)
  simp only [hdmaHeader, if_neg nonzero, channel_setChannel_same, pointed', if_true, pointer, Run.bind,
    setChannel_setChannel, setChannel_driveBus, channel_driveBus, tableByte_setChannel]
  rfl

/-- The reload is refused without a register byte it needs (R322). -/
theorem hdmaReload_unwritten {c : Chan} {r : Nat} {s : State}
    (lacks : firstUnwritten (channel s c) [0, 4, 8, 9] = some r) : hdmaReload c s = .refused (.unwritten c r) := by
  simp only [hdmaReload, lacks]

section
variable {c : Chan} {s : State} (written : firstUnwritten (channel s c) [0, 4, 8, 9] = none)
  (plain : TablePlain s (tableAt (channel s c) 0))
include written plain

/-- R322: a reload takes its header from the table. -/
theorem hdmaReload_header :
    hdmaReload c s = hdmaHeader c (tableByte s (tableAt (channel s c) 0)) (setChannel c
      { channel s c with a2a := (channel s c).a2a + 1 } (driveBus (tableByte s (tableAt (channel s c) 0)) s)) := by
  simp only [hdmaReload, written, hdmaFetch_table plain, Run.bind]

/-- R322, R329: a reload that reads no pointer, whole. -/
theorem hdmaReload_noPointer
    (single : tableByte s (tableAt (channel s c) 0) = 0 ∨ indirect (channel s c) = false) :
    hdmaReload c s = .ok s.cfg.hdmaHeader (setChannel c
      { channel s c with
        a2a := (channel s c).a2a + 1, ntrl := tableByte s (tableAt (channel s c) 0),
        written := (channel s c).written ||| (1#12 <<< 10),
        hdmaTerminated := (channel s c).hdmaTerminated || decide (tableByte s (tableAt (channel s c) 0) = 0),
        hdmaDoTransfer := decide (tableByte s (tableAt (channel s c) 0) ≠ 0) }
      (driveBus (tableByte s (tableAt (channel s c) 0)) s)) := by
  rw [hdmaReload_header written plain, hdmaHeader_noPointer (by rw [channel_setChannel_same]; exact single),
    channel_setChannel_same, setChannel_setChannel]
  rfl

/-- R322: a reload that reads a pointer, whole. -/
theorem hdmaReload_pointer (nonzero : tableByte s (tableAt (channel s c) 0) ≠ 0)
    (pointed : indirect (channel s c) = true) (low : TablePlain s (tableAt (channel s c) 1))
    (high : TablePlain s (tableAt (channel s c) 2)) :
    hdmaReload c s = .ok (s.cfg.hdmaHeader + s.cfg.hdmaPointer) (setChannel c
      { channel s c with
        a2a := (channel s c).a2a + 3, ntrl := tableByte s (tableAt (channel s c) 0),
        das := tableByte s (tableAt (channel s c) 2) ++ tableByte s (tableAt (channel s c) 1),
        written := (channel s c).written ||| (1#12 <<< 10) ||| (1#12 <<< 5) ||| (1#12 <<< 6), hdmaDoTransfer := true }
      (driveBus (tableByte s (tableAt (channel s c) 2)) s)) := by
  have lowAt : tableAt { channel s c with a2a := (channel s c).a2a + 1 } 0 = tableAt (channel s c) 1 := by simp [tableAt]
  have highAt : tableAt { channel s c with a2a := (channel s c).a2a + 1 } 1 = tableAt (channel s c) 2 :=
    congrArg ((channel s c).a1b ++ ·) (BitVec.add_assoc _ _ _)
  have past : (channel s c).a2a + 1 + 2 = (channel s c).a2a + 3 := BitVec.add_assoc _ _ _
  rw [hdmaReload_header written plain, hdmaHeader_pointer nonzero (by rw [channel_setChannel_same]; exact pointed)
    (by rw [channel_setChannel_same, lowAt]; exact low) (by rw [channel_setChannel_same, highAt]; exact high)]
  simp only [channel_setChannel_same, channel_driveBus, lowAt, highAt, past, setChannel_driveBus, setChannel_setChannel,
    driveBus_driveBus, tableByte_setChannel, tableByte_driveBus, driveBus_cfg, setChannel_cfg]

end

/-! ### The per-frame reload -/

/-- R331: the channels before and after `c`, in the order they are handled. -/
theorem allChannels_split (c : Chan) :
    ∃ before after, allChannels = before ++ c :: after ∧ (∀ d ∈ before, d < c) ∧ (∀ d ∈ after, c < d) := by
  obtain ⟨before, after, split⟩ := List.append_of_mem (mem_allChannels c)
  have rising : allChannels.Pairwise (· < ·) := by decide
  rw [split, List.pairwise_append, List.pairwise_cons] at rising
  obtain ⟨-, ⟨greater, -⟩, less⟩ := rising
  exact ⟨before, after, split, fun d hd => less d hd c List.mem_cons_self, greater⟩

/-- R321: every channel but `c` ends, be it handled before or after the reload of `c`. -/
theorem channel_endChannels_around {c d : Chan} {before after : List Chan} {s t : State}
    (split : allChannels = before ++ c :: after) (hd : d ≠ c)
    (same : channel t d = channel (endChannels before s) d) : channel (endChannels after t) d = ended (channel s d) := by
  have handled : d ∈ before ∨ d ∈ after := by
    have member := mem_allChannels d
    rw [split, List.mem_append, List.mem_cons] at member
    exact member.imp id fun h => h.resolve_left hd
  rw [channel_endChannels, same, channel_endChannels]
  by_cases later : d ∈ after
  · rw [if_pos later]
    split <;> rfl
  · rw [if_neg later, if_pos (handled.resolve_right later)]

/-- R321, R331: the reload comes to the first enabled channel with the channels below it ended. -/
theorem forChannels_toEnabled {c : Chan} {s : State} (b : Burst) (before after : List Chan)
    (off : ∀ d ∈ before, s.hdmaen.getLsbD d.val = false) :
    forChannels hdmaInitChannel (before ++ c :: after) b s =
      (hdmaInitChannel c b (endChannels before s)).bind fun b1 s1 => forChannels hdmaInitChannel after b1 s1 := by
  rw [forChannels_append, forChannels_disabled b before s off]
  rfl

/-- R321: the per-frame reload is refused without the table address of the first enabled channel. -/
theorem hdmaInit_unwritten {c : Chan} {r : Nat} {s : State} (on : s.hdmaen.getLsbD c.val = true)
    (below : ∀ d : Chan, d < c → s.hdmaen.getLsbD d.val = false)
    (lacks : firstUnwritten (channel s c) [2, 3] = some r) : hdmaInit s = .refused (.unwritten c r) := by
  obtain ⟨before, after, split, less, -⟩ := allChannels_split c
  have here : channel (endChannels before s) c = channel s c := by
    rw [channel_endChannels, if_neg fun h => (less c h).false]
  rw [hdmaInit, split, forChannels_toEnabled _ _ _ fun d hd => below d (less d hd),
    hdmaInitChannel_unwritten (s := endChannels before s) _ on (here.symm ▸ lacks)]
  rfl

theorem getLsbD_single : ∀ c d : Chan, (1#8 <<< c.val).getLsbD d.val = decide (d = c) := by decide

/-- R321, R322: a restarted channel has every register its reload needs, if DMAP and A1B have been written. -/
theorem restarted_written {ch : Channel} (control : isWritten ch 0 = true) (bank : isWritten ch 4 = true) :
    firstUnwritten (restarted ch) [0, 4, 8, 9] = none := by
  have marked (r : Nat) (hr : isWritten ch r = true ∨ (0x300#12).getLsbD r = true) : isWritten (restarted ch) r = true := by
    simpa only [isWritten, restarted, BitVec.getLsbD_or, Bool.or_eq_true] using hr
  refine firstUnwritten_eq_none fun r hr => marked r ?_
  fin_cases hr
  · exact .inl control
  · exact .inl bank
  · exact .inr rfl
  · exact .inr rfl

/-- A channel after a reload from a header `h` that reads no pointer (R321, R322, R329). -/
def reloaded (ch : Channel) (h : Byte) : Channel :=
  { ch with
    a2a := ch.a1t + 1, ntrl := h, written := ch.written ||| 0x700#12,
    hdmaTerminated := decide (h = 0), hdmaDoTransfer := decide (h ≠ 0) }

/-- R321, R322: an enabled channel is taken from a GDMA, restarted at its table and reloaded without a pointer. -/
theorem hdmaInitChannel_noPointer {c : Chan} (b : Burst) {s : State} (on : s.hdmaen.getLsbD c.val = true)
    (written : ∀ r ∈ [0, 2, 3, 4], isWritten (channel s c) r = true) (plain : TablePlain s (gdmaAddr (channel s c)))
    (single : tableByte s (gdmaAddr (channel s c)) = 0 ∨ indirect (channel s c) = false) :
    hdmaInitChannel c b s = .ok ⟨true, b.cost + s.cfg.hdmaHeader⟩
      (setChannel c (reloaded (channel s c) (tableByte s (gdmaAddr (channel s c))))
        (driveBus (tableByte s (gdmaAddr (channel s c))) (disableGdma c s))) := by
  have table : firstUnwritten (channel s c) [2, 3] = none :=
    firstUnwritten_eq_none fun r hr => written r (by simp at hr ⊢; omega)
  have start : tableAt (restarted (channel s c)) 0 = gdmaAddr (channel s c) := by
    simp [tableAt, restarted, gdmaAddr, assemble]
  have marks : (channel s c).written ||| 0x300#12 ||| (1#12 <<< 10) = (channel s c).written ||| 0x700#12 :=
    BitVec.or_assoc _ _ _
  rw [hdmaInitChannel_enabled b on table, hdmaReload_noPointer]
  all_goals rw [channel_setChannel_same]
  · rw [start]
    simp only [restarted, marks, Run.bind, setChannel_driveBus, setChannel_setChannel, Bool.false_or]
    rfl
  · exact restarted_written (written 0 (by simp)) (written 4 (by simp))
  · rw [start]; exact plain
  · rw [start]; exact single

/-- R321, R330: the per-frame reload with one channel enabled, which reads no pointer. -/
theorem hdmaInit_single {c : Chan} {s : State} (only : s.hdmaen = 1#8 <<< c.val)
    (written : ∀ r ∈ [0, 2, 3, 4], isWritten (channel s c) r = true) (plain : TablePlain s (gdmaAddr (channel s c)))
    (single : tableByte s (gdmaAddr (channel s c)) = 0 ∨ indirect (channel s c) = false) :
    ∃ before after, allChannels = before ++ c :: after ∧ c ∉ before ∧ c ∉ after ∧
      hdmaInit s = .ok () (stallBegin (s.cfg.hdmaOverhead + s.cfg.hdmaHeader) (endChannels after
        (setChannel c (reloaded (channel s c) (tableByte s (gdmaAddr (channel s c))))
          (driveBus (tableByte s (gdmaAddr (channel s c))) (disableGdma c (endChannels before s)))))) := by
  obtain ⟨before, after, split, less, greater⟩ := allChannels_split c
  have notBefore : c ∉ before := fun h => (less c h).false
  have notAfter : c ∉ after := fun h => (greater c h).false
  have enabled (d : Chan) : s.hdmaen.getLsbD d.val = decide (d = c) := by rw [only, getLsbD_single]
  have off (d : Chan) (hd : d ≠ c) : s.hdmaen.getLsbD d.val = false := by rw [enabled, decide_eq_false hd]
  have here : channel (endChannels before s) c = channel s c := by rw [channel_endChannels, if_neg notBefore]
  have handled := hdmaInitChannel_noPointer (c := c) ⟨false, 0⟩ (s := endChannels before s)
    ((enabled c).trans (decide_eq_true rfl)) (by rwa [here]) (by rw [here]; exact plain) (by rw [here]; exact single)
  rw [here] at handled
  have rest (b : Burst) (u : State) (same : u.hdmaen = s.hdmaen) :
      forChannels hdmaInitChannel after b u = .ok b (endChannels after u) :=
    forChannels_disabled b after u fun d hd => by rw [same, off d (greater d hd).ne']
  refine ⟨before, after, split, notBefore, notAfter, ?_⟩
  rw [hdmaInit, split, forChannels_toEnabled _ _ _ fun d hd => off d (less d hd).ne, handled, Run.bind, rest]
  · simp only [Run.bind, Nat.zero_add]
    rfl
  · rfl

theorem exists_getLsbD_of_ne_zero {m : Byte} (h : m ≠ 0) : ∃ c : Chan, m.getLsbD c.val = true := by
  by_contra allOff
  refine h (BitVec.eq_of_getLsbD_eq fun i hi => ?_)
  exact (Bool.eq_false_iff.2 fun on => allOff ⟨⟨i, hi⟩, on⟩).trans BitVec.getLsbD_zero.symm

/-- Settles O47: a reload by its header (`hdmaReload_noPointer`, `hdmaReload_pointer`), the per-frame reload as the chain
of its channels (`hdmaInit_chain`), the tick as that reload (`dotActions_initDot`). -/
theorem hdmaReloads : Obligations.HdmaReloads := by
  refine ⟨fun s c => ?_, fun s c r hr unwritten below => ?_, fun s c only => ?_, fun s t reload => ?_,
    fun s c r on below hr unwritten low => ?_, fun s v can off inLine only first reload => ?_⟩
  · intro ch at' plain byte mark all header
    have written : firstUnwritten (channel s c) [0, 4, 8, 9] = none := firstUnwritten_eq_none all
    refine ⟨fun zero => ?_, fun nonzero direct => ?_, fun nonzero pointed low high => ?_⟩
    · have whole := hdmaReload_noPointer written header (.inl zero)
      have ends : tableByte s (tableAt (channel s c) 0) = 0 := zero
      rw [ends] at whole
      rw [zero, whole, Bool.or_eq_true_iff.2 (.inr (decide_eq_true rfl))]
      rfl
    · have whole := hdmaReload_noPointer written header (.inr direct)
      have starts : ¬ tableByte s (tableAt (channel s c) 0) = 0 := nonzero
      rw [decide_eq_false starts, decide_eq_true starts, Bool.or_false] at whole
      exact whole
    · exact hdmaReload_pointer written header nonzero pointed low high
  · exact hdmaReload_unwritten (firstUnwritten_eq_some (by decide) hr unwritten below)
  · intro ch a h all window ram single
    obtain ⟨before, after, split, notBefore, notAfter, whole⟩ := hdmaInit_single only all ⟨window, ram⟩ single
    refine ⟨_, whole, ?_, fun d hd => ?_, rfl, rfl, ?_⟩
    · rw [channel_endChannels, if_neg notAfter, channel_setChannel_same]
      rfl
    · exact channel_endChannels_around split hd (channel_setChannel_other _ _ hd)
    · simp only [endChannels, setChannel, driveBus, disableGdma]
  · obtain ⟨states, active, cost, start, kept, steps, ends⟩ := hdmaInit_chain reload
    have active_eq (c : Chan) : active c.val = s.hdmaen.getLsbD c.val := by
      rw [(steps c).enabled, (kept c.val c.isLt.le).constants.2.1]
    refine ⟨states, cost, start, fun c => ⟨fun off => ?_, fun on => ?_⟩, fun off => ?_, fun on => ?_⟩
    · exact (steps c).ends ((active_eq c).trans off)
    · obtain ⟨low, high⟩ := (steps c).written ((active_eq c).trans on)
      exact ⟨low, high, (steps c).reloads ((active_eq c).trans on)⟩
    · have idle (c : Chan) : active c.val = false := by rw [active_eq, off]; exact BitVec.getLsbD_zero
      rw [ends, burstStall_none (any_range_eq_false idle)]
    · obtain ⟨c, enabled⟩ := exists_getLsbD_of_ne_zero on
      rw [ends, burstStall_any (any_range_eq_true ((active_eq c).trans enabled)), (kept 8 (Nat.le_refl 8)).constants.1]
  · have lacks : firstUnwritten (channel s c) [2, 3] = some r := by
      rcases hr with rfl | rfl
      · exact firstUnwritten_cons_unwritten unwritten _
      · exact (firstUnwritten_cons_written (low rfl) _).trans (firstUnwritten_cons_unwritten unwritten _)
    exact hdmaInit_unwritten on below lacks
  · have tick : dotActions (event s .video).when (tickMoved s) = hdmaInit (tickMoved s) :=
      dotActions_initDot _ (Nat.succ_ne_zero _) only first
    exact exec_evVideo_of_actions can off inLine (tick.trans reload)

end Sys2Proof.Machine
end

section
/-! SUPPORT. Between two ticks: what leaves the position, the blank flags and EV_VIDEO as they are. -/

namespace Sys2Proof.Machine

/-! ### Between two ticks -/

/-- The position and the blank flags, which only a tick changes (R350, R351). -/
def counters (s : State) : Nat × Nat × Bool × Bool × Bool := (s.dot, s.scanline, s.field, s.vblank, s.hblank)

/-- From `s` to `t` no tick fires: the counters, EV_VIDEO, the time and the parameters stay. -/
structure NoTick (s t : State) : Prop where
  counters  : counters t = counters s
  video     : event t .video = event s .video
  committed : t.committed = s.committed
  cfg       : t.cfg = s.cfg

theorem NoTick.trans {s t u : State} (h : NoTick s t) (g : NoTick t u) : NoTick s u :=
  ⟨g.counters.trans h.counters, g.video.trans h.video, g.committed.trans h.committed, g.cfg.trans h.cfg⟩

theorem NoTick.of_cpu {s t : State} (k : CpuKeeps s t) : NoTick s t := by
  have kept {α : Type} (f : State → α) : f (blankCpu t) = f (blankCpu s) := congrArg f k.rest
  exact ⟨kept Machine.counters, k.video, kept State.committed, kept State.cfg⟩

theorem NoTick.of_gdma {s t : State} (k : GdmaKeeps s t) : NoTick s t := by
  have kept {α : Type} (f : State → α) : f (blankGdma t) = f (blankGdma s) := congrArg f k.rest
  exact ⟨kept Machine.counters, k.other .video (by decide), kept State.committed, kept State.cfg⟩

/-- The callbacks of the other events are no tick (R421, R294, R196, R358). -/
theorem dispatch_noTick {e : EventId} (he : e ≠ .video) (late : Nat) (s : State) :
    Run.Sat (NoTick s) (NoTick s) (dispatch e late s) := by
  unfold dispatch
  split
  · exact ⟨rfl, rfl, rfl, rfl⟩
  · cases e with
    | irq => simp only [irqAssert, Run.sat_ok]; split <;> exact ⟨rfl, rfl, rfl, rfl⟩
    | video => exact absurd rfl he
    | dma => exact (gdmaStep_sat late s).mono (fun _ k => .of_gdma k.1) fun _ k => .of_gdma k.1
    | stall | joy => exact ⟨rfl, rfl, rfl, rfl⟩

theorem fireEvent_noTick {e : EventId} (he : e ≠ .video) (s : State) :
    Run.Sat (NoTick s) (NoTick s) (fireEvent e s) := by
  have left : NoTick s (setCurrent (some e) (deschedule e s)) := ⟨rfl, event_deschedule_other s he.symm, rfl, rfl⟩
  have ended (t : State) : NoTick t { t with current := none } := ⟨rfl, rfl, rfl, rfl⟩
  exact callbackDone_sat ((dispatch_noTick he _ _).mono (fun t k => (left.trans k).trans (ended t))
    fun t k => (left.trans k).trans (ended t))

/-- An access, with what the CPU does with its cost and its byte, is no tick, and a fault of it is the router's. -/
theorem access_noTick {α : Type} {s : State} {r : Run α} (h : CpuSat s r) {k : α → State → State}
    (hk : ∀ a t, NoTick t (k a t)) :
    Run.Sat (NoTick s) (fun t => NoTick s t ∧ TransferFault t) (r.bind fun a t => .ok () (k a t)) :=
  Run.Sat.bind h (fun a t c => (NoTick.of_cpu c.1).trans (hk a t)) fun _ c => ⟨.of_cpu c.1, c.2⟩

/-- R183 to R192: no bus operation is a tick. -/
theorem performOp_noTick (i : Instr) (s : State) :
    Run.Sat (NoTick s) (fun t => NoTick s t ∧ TransferFault t) (performOp i s) := by
  cases i with
  | fetch a | readOperand a | memoryLoad a | dummyRead a =>
    exact access_noTick (memRead_sat a s) fun _ _ => ⟨rfl, rfl, rfl, rfl⟩
  | memoryStore a v => exact access_noTick (memWrite_sat a v s) fun _ _ => ⟨rfl, rfl, rfl, rfl⟩
  | idle | halt | stop | nmiAck => exact ⟨rfl, rfl, rfl, rfl⟩
  | _ => exact True.intro

/-! ### Instructions that fire no tick -/

/-- What holds before an operation and at its every end holds of the next state, in the fault state too. -/
theorem sat_of_unlessFaulted {P : State → Prop} {s t : State} {r : Run Unit} (h : unlessFaulted s r = .next t)
    (hs : P s) (hr : Run.Sat P P r) : P t := by
  rcases unlessFaulted_next h with rfl | ⟨-, h⟩
  · exact hs
  · exact hr.of_next h

/-- What a command that neither advances nor runs the CPU can write: the queue, the host's switches and the reply
(R162 to R167, R394, R395). -/
abbrev CommandKeeps (s t : State) : Prop :=
  { t with
    events := s.events, seqCounter := s.seqCounter, joyInput := s.joyInput, paused := s.paused, reply := s.reply } = s

theorem execSetKey_keeps {bit : BitVec 4} {port : BitVec 1} {pressed : Bool} {s t : State}
    (h : execSetKey bit port pressed s = .next t) : CommandKeeps s t := by
  unfold execSetKey at h
  split at h
  · exact sat_of_unlessFaulted (P := CommandKeeps s) h rfl rfl
  · cases h

/-- R162 to R167, R394, R395: the commands that neither advance nor run the CPU. -/
theorem execCommand_keeps {s t : State} :
    ∀ {i : Instr}, (rowOf i).format = .cmd → i ≠ .reset → (∀ n, i ≠ .advance n) → i ≠ .stepOnce → i ≠ .runFrame →
      i ≠ .runInstruction → exec i s = .next t → CommandKeeps s t
  | .schedule _ _, _, _, _, _, _, _, h | .reschedule _ _, _, _, _, _, _, _, h | .deschedule _, _, _, _, _, _, _, h
  | .scheduleAt _ _, _, _, _, _, _, _, h | .pause, _, _, _, _, _, _, h | .resume, _, _, _, _, _, _, h =>
    sat_of_unlessFaulted (P := CommandKeeps s) h rfl rfl
  | .anyEventDue, _, _, _, _, _, _, h | .isPaused, _, _, _, _, _, _, h => by cases h; rfl
  | .setKey _ _ _, _, _, _, _, _, _, h => execSetKey_keeps h
  | .reset, _, notReset, _, _, _, _, _ => absurd rfl notReset
  | .advance n, _, _, notAdvance, _, _, _, _ => absurd rfl (notAdvance n)
  | .stepOnce, _, _, _, notStep, _, _, _ => absurd rfl notStep
  | .runFrame, _, _, _, _, notFrame, _, _ => absurd rfl notFrame
  | .runInstruction, _, _, _, _, _, notInstruction, _ => absurd rfl notInstruction

theorem CommandKeeps.counters {s t : State} (k : CommandKeeps s t) : counters t = counters s := by
  have e := congrArg Machine.counters k
  exact e

/-- Settles O58: by the kind of the instruction, none but a tick moves the counters. -/
theorem onlyTicksMoveThePosition : Obligations.OnlyTicksMoveThePosition := by
  intro i s t notVideo notAdvance notStep notFrame notInstruction notReset h
  suffices kept : counters t = counters s by simpa only [counters, Prod.mk.injEq] using kept
  have ends {r : Run Unit} (h : unlessFaulted s r = .next t)
      (hr : Run.Sat (fun u => counters u = counters s) (fun u => counters u = counters s) r) : counters t = counters s :=
    sat_of_unlessFaulted (P := fun u => counters u = counters s) h rfl hr
  cases instrKind i with
  | busop hb =>
    rw [exec_of_isBusop hb] at h
    exact ends h ((performOp_noTick i s).mono (fun _ k => k.counters) fun _ k => k.1.counters)
  | read bank r =>
    rw [exec_readRow] at h
    exact ends h (NoTick.of_cpu ((blockRead_keeps r s).1.drive _)).counters
  | write bank r =>
    rw [exec_writeRow] at h
    exact ends h (NoTick.of_cpu (blockWrite_keeps _ _ r s).1).counters
  | command hc => exact (execCommand_keeps hc notReset notAdvance notStep notFrame notInstruction h).counters
  | event e =>
    rw [exec_eventRow] at h
    have other : e ≠ .video := fun he => notVideo (congrArg eventRow he)
    exact ends h ((fireEvent_noTick other s).mono (fun _ k => k.counters) fun _ k => k.counters)

end Sys2Proof.Machine
end

section
/-! SUPPORT. A tick: the move of the counters, the flags its actions leave at the new position, the joypad's event, and
EV_VIDEO queued for the next dot. -/

namespace Sys2Proof.Machine

/-! ### The move of the counters -/

theorem advancePosition_inLine {s : State} (inLine : s.dot + 1 ≠ s.cfg.dots) :
    advancePosition s = { s with dot := s.dot + 1 } := if_neg inLine

theorem advancePosition_lineEnd {s : State} (lineEnd : s.dot + 1 = s.cfg.dots) (inFrame : s.scanline + 1 ≠ s.cfg.lines) :
    advancePosition s = { s with dot := 0, scanline := s.scanline + 1 } := (if_pos lineEnd).trans (if_neg inFrame)

theorem advancePosition_frameEnd {s : State} (lineEnd : s.dot + 1 = s.cfg.dots)
    (frameEnd : s.scanline + 1 = s.cfg.lines) :
    advancePosition s = { s with dot := 0, scanline := 0, field := !s.field } := (if_pos lineEnd).trans (if_pos frameEnd)

theorem advancePosition_cfg (s : State) : (advancePosition s).cfg = s.cfg := by
  unfold advancePosition
  split
  · split <;> rfl
  · rfl

/-- The state that the actions of a tick start from: EV_VIDEO has left the queue and the counters have moved (R351). -/
def tickStart (s : State) : State :=
  { deschedule .video s with
    current := some .video, dot := (advancePosition s).dot, scanline := (advancePosition s).scanline,
    field := (advancePosition s).field }

theorem advancePosition_fired (s : State) :
    advancePosition (setCurrent (some .video) (deschedule .video s)) = tickStart s := by
  by_cases lineEnd : s.dot + 1 = s.cfg.dots
  · by_cases frameEnd : s.scanline + 1 = s.cfg.lines
    · rw [tickStart, advancePosition_frameEnd (s := s) lineEnd frameEnd]
      exact advancePosition_frameEnd lineEnd frameEnd
    · rw [tickStart, advancePosition_lineEnd (s := s) lineEnd frameEnd]
      exact advancePosition_lineEnd lineEnd frameEnd
  · rw [tickStart, advancePosition_inLine (s := s) lineEnd]
    exact advancePosition_inLine lineEnd

/-! ### The joypad's event -/

/-- The auto-joypad starts at this position (R357). -/
def joyStarts (s : State) : Bool := s.scanline == s.cfg.vblankLine && s.dot == s.cfg.joyDot && autoJoyEnable s

/-- What EV_JOY is in `t` after a tick from `s`: queued for `w` if the tick starts the auto-joypad, else as before. -/
def JoyQueued (starts : Bool) (w : Nat) (s t : State) : Prop :=
  if starts then (event t .joy).queued = true ∧ (event t .joy).when = w else event t .joy = event s .joy

/-- From `s` to `t` the joypad's event and what starts it stay. -/
structure JoyKept (s t : State) : Prop where
  event    : event t .joy = event s .joy
  nmitimen : t.nmitimen = s.nmitimen
  cfg      : t.cfg = s.cfg

theorem JoyKept.trans {s t u : State} (h : JoyKept s t) (g : JoyKept t u) : JoyKept s u :=
  ⟨g.event.trans h.event, g.nmitimen.trans h.nmitimen, g.cfg.trans h.cfg⟩

theorem JoyKept.of_hdma {s t : State} (k : HdmaKeeps s t) : JoyKept s t := by
  have kept {α : Type} (f : State → α) : f (blankHdma t) = f (blankHdma s) := congrArg f k.rest
  exact ⟨k.joy, kept State.nmitimen, kept State.cfg⟩

theorem JoyQueued.trans {starts : Bool} {w : Nat} {s t u : State} (h : JoyQueued starts w s t) (k : JoyKept t u) :
    JoyQueued starts w s u := by
  rw [JoyQueued, k.event]
  exact h

/-- What goes on keeps the joypad's event and what starts it. -/
abbrev JoySat {α : Type} (s : State) (r : Run α) : Prop := Run.Sat (JoyKept s) (fun _ => True) r

theorem JoySat.action (cond : Bool) {f : State → State} (s : State) (h : JoyKept s (f s)) :
    JoySat s (actionIf cond f s) := by
  unfold actionIf
  cases cond
  · exact ⟨rfl, rfl, rfl⟩
  · exact h

theorem JoySat.of_hdma {α : Type} {s : State} {r : Run α} (h : HdmaSat s r) : JoySat s r :=
  h.mono (fun _ k => .of_hdma k.1) fun _ _ => True.intro

/-- The actions before the auto-joypad start leave its event and its enable alone. -/
theorem JoyKept.bind {P : State → Prop} {s x : State} {r : Run Unit} {k : Unit → State → Run Unit} (hx : JoyKept s x)
    (h : JoySat x r) (hk : ∀ y, JoyKept s y → Run.Sat P (fun _ => True) (k () y)) :
    Run.Sat P (fun _ => True) (r.bind k) :=
  Run.Sat.bind h (fun _ y hy => hk y (hx.trans hy)) fun _ _ => True.intro

/-- The actions after the auto-joypad start leave its event alone. -/
theorem JoyQueued.bind {starts : Bool} {w : Nat} {P : State → Prop} {s x : State} {r : Run Unit}
    {k : Unit → State → Run Unit} (hx : JoyQueued starts w s x) (h : JoySat x r)
    (hk : ∀ y, JoyQueued starts w s y → Run.Sat P (fun _ => True) (k () y)) : Run.Sat P (fun _ => True) (r.bind k) :=
  Run.Sat.bind h (fun _ y hy => hk y (hx.trans hy)) fun _ _ => True.intro

/-- R353, R357: of the actions of a dot, the auto-joypad start alone touches EV_JOY, by the enable the tick found. -/
theorem dotActions_joy (t0 : Nat) (s : State) :
    Run.Sat (JoyQueued (joyStarts s) (t0 + s.cfg.joyBusyCycles) s) (fun _ => True) (dotActions t0 s) := by
  unfold dotActions
  simp only
  refine JoyKept.bind (s := s) ⟨rfl, rfl, rfl⟩ (.action _ s ⟨rfl, rfl, rfl⟩) fun s1 k1 => ?_
  refine k1.bind (.action _ s1 ⟨rfl, rfl, rfl⟩) fun s2 k2 => ?_
  refine k2.bind (.action _ s2 ⟨rfl, rfl, rfl⟩) fun s3 k3 => ?_
  have reload : JoySat s3 (if s.scanline == 0 && s.dot == s.cfg.hdmaInitDot then hdmaInit s3 else .ok () s3) := by
    split
    · exact .of_hdma (hdmaInit_sat s3)
    · exact ⟨rfl, rfl, rfl⟩
  refine k3.bind reload fun s4 k4 => ?_
  refine k4.bind (.action _ s4 ⟨rfl, rfl, rfl⟩) fun s5 k5 => ?_
  have enable : autoJoyEnable s5 = autoJoyEnable s := by rw [autoJoyEnable, k5.nmitimen]; rfl
  have started : Run.Sat (JoyQueued (joyStarts s) (t0 + s.cfg.joyBusyCycles) s) (fun _ => True)
      (actionIf (s.scanline == s.cfg.vblankLine && s.dot == s.cfg.joyDot && autoJoyEnable s5) (joyStart t0) s5) := by
    rw [enable, actionIf, ← joyStarts]
    cases joyStarts s
    · exact k5.event
    · exact ⟨rfl, k5.cfg ▸ rfl⟩
  refine Run.Sat.bind started (fun _ s6 h6 => ?_) fun _ _ => True.intro
  refine h6.bind (.action _ s6 (.of_hdma (stallBegin_keeps _ s6))) fun s7 h7 => ?_
  have hblank : JoyKept s7 (hblankStart s.scanline s7) := by
    unfold hblankStart
    split <;> exact ⟨rfl, rfl, rfl⟩
  refine h7.bind (.action _ s7 hblank) fun s8 h8 => ?_
  split
  · exact (JoySat.of_hdma (hdmaLine_sat s8)).mono (fun _ => h8.trans) fun _ => id
  · exact h8

/-! ### The flags of a tick -/

/-- The entry and the exit of vertical blank, at the position where one falls (R362, R363). -/
def tickVblank (s : State) : State :=
  let s1 := if s.dot == 0 && s.scanline == s.cfg.vblankLine then vblankEnter s else s
  if s.dot == 0 && s.scanline == 0 then vblankExit s1 else s1

/-- R353: the flags of a tick, each by the last action that writes it. -/
theorem tickFlags_eq (s : State) :
    tickFlags s = { tickVblank s with
      hblank := if s.dot == s.cfg.hblankDot then true
        else if s.dot == s.cfg.hblankClearDot then false else (tickVblank s).hblank
      autoJoyBusy := if joyStarts s then true else (tickVblank s).autoJoyBusy
      joy := if joyStarts s then #v[s.joyInput[0], s.joyInput[1], 0x0000, 0x0000] else (tickVblank s).joy } := by
  have inOrder : tickFlags s =
      let cleared : State := if s.dot == s.cfg.hblankClearDot then { tickVblank s with hblank := false } else tickVblank s
      let latched : State :=
        if joyStarts s then
          { cleared with autoJoyBusy := true, joy := #v[s.joyInput[0], s.joyInput[1], 0x0000, 0x0000] }
        else cleared
      if s.dot == s.cfg.hblankDot then { latched with hblank := true } else latched := rfl
  rw [inOrder]
  generalize tickVblank s = v
  cases s.dot == s.cfg.hblankClearDot <;> cases joyStarts s <;> cases s.dot == s.cfg.hblankDot <;> rfl

theorem apply_if_keeps {α : Type} {f : State → α} {g : State → State} {s : State} (h : f (g s) = f s) (cond : Bool) :
    f (if cond then g s else s) = f s := by
  cases cond
  · rfl
  · exact h

/-- What neither the entry nor the exit of vertical blank changes stays. -/
theorem tickVblank_keeps {α : Type} (f : State → α) (entry : ∀ x, f (vblankEnter x) = f x)
    (exit : ∀ x, f (vblankExit x) = f x) (s : State) : f (tickVblank s) = f s :=
  (apply_if_keeps (exit _) _).trans (apply_if_keeps (entry s) _)

/-- The flags apart, a tick's actions that are not DMA's leave every field as it is. -/
theorem blankTick_tickFlags (s : State) : blankTick (tickFlags s) = blankTick s := by
  rw [tickFlags_eq]
  exact tickVblank_keeps blankTick (fun x => (vblankEnter_keeps x).rest) (fun x => (vblankExit_keeps x).rest) s

/-! ### The whole tick -/

/-- What a tick from `s` leaves once its actions have run: the flags at the new position, EV_VIDEO queued one dot after
its own time (R367), and the joypad's event (R357). -/
structure Ticked (s t : State) : Prop where
  rest  : blankHdma t = blankHdma (setCurrent none (tickFlags (tickStart s)))
  video : (event t .video).queued = true ∧ (event t .video).when = (event s .video).when + s.cfg.dotCycles
  joy   : JoyQueued (joyStarts (tickStart s)) ((event s .video).when + s.cfg.joyBusyCycles) s t

/-- The comparator queues EV_IRQ at most (R419, R420). -/
theorem irqCompare_eq (t0 : Nat) (s : State) :
    irqCompare t0 s = s ∨ irqCompare t0 s = scheduleAt .irq (t0 + s.cfg.irqLatency) s := by
  unfold irqCompare
  split
  · exact .inr rfl
  · exact .inl rfl

theorem blankHdma_irqCompare (t0 : Nat) (s : State) : blankHdma (irqCompare t0 s) = blankHdma s := by
  rcases irqCompare_eq t0 s with h | h
  · rw [h]
  · rw [h]; rfl

theorem irqCompare_joy (t0 : Nat) (s : State) : JoyKept s (irqCompare t0 s) := by
  rcases irqCompare_eq t0 s with h | h <;> rw [h] <;> exact ⟨rfl, rfl, rfl⟩

/-- R351: the end of a tick, by its actions. -/
theorem videoTick_ticked {s : State} (due : (event s .video).when ≤ s.committed) :
    Run.Sat (fun t => Ticked s { t with current := none }) (fun _ => True)
      (videoTick (s.committed - (event s .video).when) (setCurrent (some .video) (deschedule .video s))) := by
  have ownTime : s.committed - (s.committed - (event s .video).when) = (event s .video).when := by omega
  unfold videoTick
  simp only [setCurrent_committed, deschedule_committed, ownTime, advancePosition_fired]
  refine Run.Sat.bind ((dotActions_flags _ _).and (dotActions_joy _ _)) (fun _ m ⟨flags, joy⟩ => ?_)
    fun _ _ => True.intro
  have cfg : m.cfg = s.cfg := by
    have e := congrArg State.cfg flags
    have e' := congrArg State.cfg (blankTick_tickFlags (tickStart s))
    exact Eq.trans e e'
  refine ⟨?_, ⟨rfl, ?_⟩, ?_⟩
  · exact congrArg (setCurrent none) ((blankHdma_irqCompare _ m).trans flags)
  · rw [← cfg]; rfl
  · exact (joy.trans (irqCompare_joy _ m)).trans ⟨rfl, rfl, rfl⟩

/-- R351, R411: firing EV_VIDEO at or after its time is a tick, or ends in the fault state. -/
theorem fireEvent_ticked {s : State} (queued : (event s .video).queued = true)
    (due : (event s .video).when ≤ s.committed) :
    Run.Sat (Ticked s) (fun t => t.fault ≠ none) (fireEvent .video s) := by
  have ends : Run.Sat (Ticked s) (fun _ => True) (fireEvent .video s) := by
    rw [fireEvent_of_queued queued]
    refine callbackDone_sat ?_
    unfold dispatch
    split
    · exact True.intro
    · exact videoTick_ticked due
  exact (ends.and (fireEvent_raised .video s)).mono (fun _ h => h.1) fun _ h => h.2

/-- An EVENT word that leaves the block live has done its tick. -/
theorem ticked_of_exec {s t : State} (can : CanFire .video s) (ht : exec .evVideo s = .next t) (live : Live t) :
    Ticked s t := by
  obtain ⟨start, -, queued, due⟩ := can
  have ends := fireEvent_ticked queued due
  have fired : (fireEvent .video s).outcome = .next t := by
    rw [← unlessFaulted_live start, ← exec_eventRow]
    exact ht
  rcases Run.outcome_next fired with h | h <;> rw [h] at ends
  · exact ends
  · exact absurd live ends

theorem blankTick_blankHdma (s : State) : blankTick (blankHdma s) = blankTick s := rfl

theorem blankTick_setCurrent (e : Option EventId) (s : State) :
    blankTick (setCurrent e s) = setCurrent e (blankTick s) := rfl

/-- What the actions of a dot do not change is, after a tick, as it was when the counters had moved. -/
theorem Ticked.kept {s t : State} (h : Ticked s t) {α : Type} (f : State → α) :
    f (blankTick t) = f (setCurrent none (blankTick (tickStart s))) := by
  rw [← blankTick_blankHdma t, h.rest, blankTick_blankHdma, blankTick_setCurrent, blankTick_tickFlags]

/-- What no DMA changes is, after a tick, as `tickFlags` has it. -/
theorem Ticked.flags {s t : State} (h : Ticked s t) {α : Type} (f : State → α) (dma : ∀ x, f (blankHdma x) = f x)
    (current : ∀ x, f (setCurrent none x) = f x) : f t = f (tickFlags (tickStart s)) := by
  rw [← dma t, h.rest, dma, current]

/-- R351, R352: what a tick does to the position is `advancePosition`. -/
theorem Ticked.position {s t : State} (h : Ticked s t) :
    t.dot = (advancePosition s).dot ∧ t.scanline = (advancePosition s).scanline ∧ t.field = (advancePosition s).field :=
  ⟨h.kept State.dot, h.kept State.scanline, h.kept State.field⟩

theorem Ticked.clock {s t : State} (h : Ticked s t) : t.committed = s.committed ∧ t.cfg = s.cfg :=
  ⟨h.kept State.committed, h.kept State.cfg⟩

/-- Settles O37: a tick that goes on moves the position as `advancePosition` does, by its three cases. -/
theorem videoPosition : Obligations.VideoPosition := by
  intro s t can ht live
  have tick := ticked_of_exec can ht live
  obtain ⟨dot, scanline, field⟩ := tick.position
  rw [dot, scanline, field]
  refine ⟨fun inLine => ?_, fun lineEnd inFrame => ?_, fun lineEnd frameEnd => ?_, tick.video⟩
  · rw [advancePosition_inLine inLine]
    exact ⟨rfl, rfl, rfl⟩
  · rw [advancePosition_lineEnd lineEnd inFrame]
    exact ⟨rfl, rfl, rfl⟩
  · rw [advancePosition_frameEnd lineEnd frameEnd]
    exact ⟨rfl, rfl, rfl⟩

/-! ### The entry and the exit of vertical blank -/

theorem tickVblank_enter {s : State} (visible : 0 < s.cfg.vblankLine) (hd : s.dot = 0)
    (hv : s.scanline = s.cfg.vblankLine) : tickVblank s = vblankEnter s := by
  have line : s.cfg.vblankLine ≠ 0 := by omega
  simp [tickVblank, hd, hv, line]

theorem tickVblank_exit {s : State} (visible : 0 < s.cfg.vblankLine) (hd : s.dot = 0) (hv : s.scanline = 0) :
    tickVblank s = vblankExit s := by
  have line : 0 ≠ s.cfg.vblankLine := by omega
  simp [tickVblank, hd, hv, line]

theorem tickVblank_elsewhere {s : State}
    (h : ¬ (s.dot = 0 ∧ (s.scanline = 0 ∨ s.scanline = s.cfg.vblankLine))) : tickVblank s = s := by
  have entry : ¬ (s.dot = 0 ∧ s.scanline = s.cfg.vblankLine) := fun ⟨hd, hv⟩ => h ⟨hd, .inr hv⟩
  have exit : ¬ (s.dot = 0 ∧ s.scanline = 0) := fun ⟨hd, hv⟩ => h ⟨hd, .inl hv⟩
  simp [tickVblank, entry, exit]

/-- R363, R417: the whole state at the exit of vertical blank: the line falls, which is no edge. -/
theorem vblankExit_eq (s : State) : vblankExit s = { s with vblank := false, nmiFlag := false, nmiPrev := false } := by
  simp [vblankExit, nmiEdgeEval]

/-- What the entry and the exit of vertical blank write (R362, R363). -/
def vblankPart (s : State) : Bool × Bool × Bool × Bool × Nat × Bool :=
  (s.vblank, s.nmiFlag, s.nmiRequest, s.nmiPrev, s.frameCounter, s.frameDone)

/-- After a tick they are as the entry or the exit left them. -/
theorem Ticked.vblankPart {s t : State} (h : Ticked s t) : vblankPart t = vblankPart (tickVblank (tickStart s)) := by
  rw [h.flags Machine.vblankPart (fun _ => rfl) (fun _ => rfl), tickFlags_eq]
  generalize tickVblank (tickStart s) = v
  rfl

theorem tickFlags_hblank (s : State) :
    (tickFlags s).hblank =
      if s.dot == s.cfg.hblankDot then true else if s.dot == s.cfg.hblankClearDot then false else s.hblank := by
  rw [tickFlags_eq, tickVblank_keeps State.hblank (fun _ => rfl) (fun _ => rfl)]

/-- R354, R360: horizontal blank ends at one dot and starts at another. -/
theorem Ticked.hblank {s t : State} (h : Ticked s t) :
    t.hblank = if t.dot == s.cfg.hblankDot then true else if t.dot == s.cfg.hblankClearDot then false else s.hblank := by
  rw [h.position.1, h.flags State.hblank (fun _ => rfl) (fun _ => rfl), tickFlags_hblank]
  rfl

/-- Settles O38: the flags of the entry and the exit of vertical blank by the position (`Ticked.vblankPart`), and hblank by
the last action that writes it (`Ticked.hblank`). -/
theorem videoFlags : Obligations.VideoFlags := by
  intro s t valid can ht live
  have tick := ticked_of_exec can ht live
  obtain ⟨-, -, ⟨visible, -⟩, -⟩ := valid
  obtain ⟨dot, scanline, -⟩ := tick.position
  have part := tick.vblankPart
  intro enable
  refine ⟨fun hd hv => ?_, fun hd hv => ?_, fun elsewhere => ?_, fun blank => ?_, fun clear other => ?_,
    fun other kept => ?_⟩
  · rw [tickVblank_enter (s := tickStart s) visible (dot.symm.trans hd) (scanline.symm.trans hv), vblankEnter_eq] at part
    simp only [vblankPart, Prod.mk.injEq] at part
    exact part
  · rw [tickVblank_exit (s := tickStart s) visible (dot.symm.trans hd) (scanline.symm.trans hv), vblankExit_eq] at part
    simp only [vblankPart, Prod.mk.injEq] at part
    exact part
  · rw [dot, scanline] at elsewhere
    rw [tickVblank_elsewhere (s := tickStart s) elsewhere] at part
    simp only [vblankPart, Prod.mk.injEq] at part
    exact part
  · simp [tick.hblank, blank]
  · rw [tick.hblank, beq_false_of_ne other, clear, beq_self_eq_true]
    rfl
  · rw [tick.hblank, beq_false_of_ne other, beq_false_of_ne kept]
    rfl

/-! ### The joypad after a tick -/

theorem tickFlags_joy (s : State) :
    (tickFlags s).autoJoyBusy = (if joyStarts s then true else s.autoJoyBusy) ∧
      (tickFlags s).joy = if joyStarts s then #v[s.joyInput[0], s.joyInput[1], 0x0000, 0x0000] else s.joy := by
  rw [tickFlags_eq, tickVblank_keeps State.autoJoyBusy (fun _ => rfl) (fun _ => rfl),
    tickVblank_keeps State.joy (fun _ => rfl) (fun _ => rfl)]
  exact ⟨rfl, rfl⟩

/-- R357: the keys are latched as the host holds them when the tick starts. -/
theorem Ticked.joypad {s t : State} (h : Ticked s t) :
    t.autoJoyBusy = (if joyStarts (tickStart s) then true else s.autoJoyBusy) ∧
      t.joy = if joyStarts (tickStart s) then #v[s.joyInput[0], s.joyInput[1], 0x0000, 0x0000] else s.joy := by
  obtain ⟨busy, joy⟩ := tickFlags_joy (tickStart s)
  rw [h.flags State.autoJoyBusy (fun _ => rfl) (fun _ => rfl), h.flags State.joy (fun _ => rfl) (fun _ => rfl), busy, joy]
  exact ⟨rfl, rfl⟩

/-- Settles O39: the latch and the busy flag are the tick's (`Ticked.joypad`), EV_JOY its event (`dotActions_joy`). -/
theorem autoJoypadStart : Obligations.AutoJoypadStart := by
  intro s t can ht live starts
  have tick := ticked_of_exec can ht live
  obtain ⟨dot, scanline, -⟩ := tick.position
  obtain ⟨busy, joy⟩ := tick.joypad
  have event := tick.joy
  have here : starts ↔ joyStarts (tickStart s) = true := by
    simp only [starts, joyStarts, dot, scanline, Bool.and_eq_true, beq_iff_eq, and_assoc]
    rfl
  rw [here, busy, joy]
  rw [JoyQueued] at event
  cases h : joyStarts (tickStart s) <;> rw [h] at event
  · exact ⟨nofun, fun _ => ⟨rfl, rfl, event⟩⟩
  · exact ⟨fun _ => ⟨rfl, rfl, rfl, rfl, rfl, event⟩, fun off => absurd rfl off⟩

end Sys2Proof.Machine
end

section
/-! SUPPORT. The law that ties the position to the number of ticks (R366), through the run loop. -/

namespace Sys2Proof.Machine

/-- The counters stand at the `k`-th dot from reset (R366). -/
def AtDot (k : Nat) (s : State) : Prop :=
  s.dot = k % s.cfg.dots ∧ s.scanline = k / s.cfg.dots % s.cfg.lines ∧
    (s.field = true ↔ k / (s.cfg.dots * s.cfg.lines) % 2 = 1)

/-- Counting within a row of `n`. -/
theorem succ_div_mod_of_ne {k n : Nat} (hn : 0 < n) (h : k % n + 1 ≠ n) :
    (k + 1) / n = k / n ∧ (k + 1) % n = k % n + 1 := by
  have inRow : k % n + 1 < n := by have := Nat.mod_lt k hn; omega
  have whole := Nat.mod_add_div k n
  exact (Nat.div_mod_unique hn).2 ⟨by omega, inRow⟩

/-- Counting on to the next row of `n`. -/
theorem succ_div_mod_of_eq {k n : Nat} (hn : 0 < n) (h : k % n + 1 = n) :
    (k + 1) / n = k / n + 1 ∧ (k + 1) % n = 0 := by
  have whole := Nat.mod_add_div k n
  exact (Nat.div_mod_unique hn).2 ⟨by rw [Nat.mul_add]; omega, hn⟩

/-- R352, R366: a tick moves the counters to the next dot. -/
theorem AtDot.advancePosition {k : Nat} {s : State} (dots : 0 < s.cfg.dots) (lines : 0 < s.cfg.lines) (h : AtDot k s) :
    AtDot (k + 1) (advancePosition s) := by
  obtain ⟨dot, scanline, field⟩ := h
  rw [← Nat.div_div_eq_div_mul] at field
  by_cases lineEnd : s.dot + 1 = s.cfg.dots
  · obtain ⟨line, start⟩ := succ_div_mod_of_eq dots (dot ▸ lineEnd)
    by_cases frameEnd : s.scanline + 1 = s.cfg.lines
    · obtain ⟨frame, top⟩ := succ_div_mod_of_eq lines (scanline ▸ frameEnd)
      rw [advancePosition_frameEnd lineEnd frameEnd]
      refine ⟨start.symm, ?_, ?_⟩
      · rw [line]; exact top.symm
      · rw [← Nat.div_div_eq_div_mul, line, frame, Bool.not_eq_true', ← Bool.not_eq_true, field]
        omega
    · obtain ⟨frame, next⟩ := succ_div_mod_of_ne lines (scanline ▸ frameEnd)
      rw [advancePosition_lineEnd lineEnd frameEnd]
      refine ⟨start.symm, ?_, ?_⟩
      · rw [line, next, ← scanline]
      · rw [← Nat.div_div_eq_div_mul, line, frame]
        exact field
  · obtain ⟨line, next⟩ := succ_div_mod_of_ne dots (dot ▸ lineEnd)
    rw [advancePosition_inLine lineEnd]
    refine ⟨?_, ?_, ?_⟩
    · rw [next, ← dot]
    · rw [line]; exact scanline
    · rw [← Nat.div_div_eq_div_mul, line]
      exact field

/-- What the run loop keeps: a valid parameter record and the position law. -/
structure Timed (s : State) : Prop where
  valid  : s.cfg.Valid
  onTime : OnTime s

/-- R366 speaks of the counters, EV_VIDEO, the parameters and a time that has been reached. -/
theorem Timed.of_noTick {s t : State} (h : Timed s) (k : NoTick s t) : Timed t := by
  obtain ⟨n, queued, next, reached, position⟩ := h.onTime
  have kept := k.counters
  simp only [counters, Prod.mk.injEq] at kept
  obtain ⟨dot, scanline, field, -, -⟩ := kept
  refine ⟨k.cfg ▸ h.valid, n, ?_⟩
  rw [k.video, k.cfg, k.committed, dot, scanline, field]
  exact ⟨queued, next, reached, position⟩

theorem Timed.commit (n : Nat) {s : State} (h : Timed s) : Timed (commit n s) := by
  obtain ⟨k, queued, next, reached, position⟩ := h.onTime
  exact ⟨h.valid, k, queued, next, reached.trans (Nat.le_add_right _ _), position⟩

/-- R367: a tick that fires at its own time or later leads to the next dot. -/
theorem Timed.of_ticked {s t : State} (h : Timed s) (due : (event s .video).when ≤ s.committed) (tick : Ticked s t) :
    Timed t := by
  obtain ⟨k, -, next, -, position⟩ := h.onTime
  obtain ⟨⟨dots, clear, -⟩, -, ⟨visible, lines⟩, -⟩ := h.valid
  have moved := AtDot.advancePosition (by omega) (by omega) position
  obtain ⟨dot, scanline, field⟩ := tick.position
  obtain ⟨committed, cfg⟩ := tick.clock
  obtain ⟨queued, requeued⟩ := tick.video
  rw [AtDot, advancePosition_cfg] at moved
  refine ⟨cfg ▸ h.valid, k + 1, queued, ?_, ?_, ?_⟩
  · rw [requeued, next, cfg, Nat.add_mul (k + 1)]; omega
  · rw [committed, cfg, ← next]; exact due
  · rw [dot, scanline, field, cfg]; exact moved

/-- Every end of a part of the run loop keeps the law, but that a fault is not asked about. -/
abbrev TimedRun {α : Type} (r : Run α) : Prop := Run.Sat Timed (fun t => t.fault ≠ none) r

theorem fireEvent_timed {e : EventId} {s : State} (h : Timed s) (due : dueEvent s = some e) : TimedRun (fireEvent e s) := by
  obtain ⟨queued, reached, -⟩ := dueEvent_some due
  by_cases video : e = .video
  · subst video
    exact (fireEvent_ticked queued reached).mono (fun _ => h.of_ticked reached) fun _ => id
  · exact ((fireEvent_noTick video s).and (fireEvent_raised e s)).mono (fun _ k => h.of_noTick k.1) fun _ k => k.2

theorem advance_timed (n : Nat) {s : State} (h : Timed s) : TimedRun (advance n s) := by
  unfold advance
  split
  · exact Option.some_ne_none _
  · exact (drain_sat (fun _ _ hs due => fireEvent_timed hs due) _ _ (h.commit n)).mono (fun _ k => k.1) fun _ => id

/-- R366: no operation of the CPU moves the position. -/
theorem performNext_timed {s : State} (h : Timed s) : TimedRun (performNext s) := by
  have sampled : NoTick s (takeInterrupt s) := ⟨by simp [counters], by simp [event], by simp, by simp⟩
  have onward (t : State) : NoTick t (cpuAdvance t) := ⟨by simp [counters], by simp [event], by simp, by simp⟩
  unfold performNext
  split
  · refine Run.Sat.bind (performOp_noTick _ _) (fun _ t k => h.of_noTick ((sampled.trans k).trans (onward t))) ?_
    rintro t ⟨-, f, fault, -⟩
    simp [fault]
  · exact True.intro

theorem bulkAdvance_timed {s : State} (h : Timed s) : TimedRun (bulkAdvance s) := by
  unfold bulkAdvance
  split
  · exact Option.some_ne_none _
  · exact advance_timed _ h

theorem runStep_timed {s : State} (h : Timed s) : TimedRun (runStep s) := by
  unfold runStep
  split
  · exact h
  split
  · exact Option.some_ne_none _
  split
  · exact advance_timed _ h
  split
  · exact h.of_noTick ⟨rfl, rfl, rfl, rfl⟩
  split
  · exact performNext_timed h
  · exact bulkAdvance_timed h

/-- A host call that leaves the block live has kept the law. -/
theorem Timed.of_outcome {r : Run Unit} {t : State} (h : TimedRun r) (ht : r.outcome = .next t) (live : Live t) :
    Timed t := by
  rcases Run.outcome_next ht with rfl | rfl
  · exact h
  · exact absurd live h

theorem runLoop_timed {i : Instr} {s t : State} (hi : i = .stepOnce ∨ i = .runFrame ∨ i = .runInstruction)
    (h : Timed s) (ht : exec i s = .next t) (live : Live t) : Timed t := by
  have steps : ∀ u, Timed u → TimedRun (runStep u) := fun _ => runStep_timed
  rcases hi with rfl | rfl | rfl
  · exact .of_outcome (runStep_timed h) ht live
  · simp only [exec, execRunFrame] at ht
    split at ht
    · cases ht; exact h
    · have started : Timed { s with frameDone := false } := h.of_noTick ⟨rfl, rfl, rfl, rfl⟩
      exact .of_outcome (frameLoop_sat steps callFuel _ started) ht live
  · simp only [exec, execRunInstruction] at ht
    split at ht
    · cases ht; exact h
    split at ht
    · exact .of_outcome (runStep_timed h) ht live
    · exact .of_outcome (instructionLoop_sat steps callFuel false s h) ht live

/-- Settles O57: the law goes through every run-loop step as `Timed`; before the next tick the time lies in the dot that
the ticks so far have led to. -/
theorem positionLaw : Obligations.PositionLaw := by
  refine ⟨fun i s t hi valid onTime ht live => (runLoop_timed hi ⟨valid, onTime⟩ ht live).onTime,
    fun s _ onTime before => ?_⟩
  obtain ⟨k, -, next, reached, position⟩ := onTime
  have ticks : s.committed / s.cfg.dotCycles = k := Nat.div_eq_of_lt_le reached (next ▸ before)
  rw [ticks]
  exact position

end Sys2Proof.Machine
end

section
/-! SUPPORT. The ticks within a scanline at which neither DMA nor the auto-joypad acts, whole. -/

namespace Sys2Proof.Machine

/-- The action at the `k`-th of the action dots (R353), where that is neither DMA's nor the auto-joypad's. -/
def plainAction (s : State) : Nat → State
  | 0 => { s with hblank := false }
  | 2 => if s.scanline = s.cfg.vblankLine then emit .oamReload s else s
  | 4 => stallBegin s.cfg.refreshCycles s
  | 5 => hblankStart s.scanline s
  | _ => s

/-- R353: at a dot within a scanline that is only the `k`-th of the action dots, or none, its action is the only one. -/
theorem dotActions_plain (t0 : Nat) {s : State} {k : Nat} (hd : s.dot ≠ 0) (only : OnlyDot s.cfg s.dot k)
    (plain : k ≠ 1 ∧ k ≠ 3 ∧ k ≠ 6) : dotActions t0 s = .ok () (plainAction s k) := by
  obtain ⟨init, joy, line⟩ := plain
  match k with
  | 1 => exact absurd rfl init
  | 3 => exact absurd rfl joy
  | 6 => exact absurd rfl line
  | 0 | 2 | 4 | 5 | n + 7 =>
    obtain ⟨clear, init, oam, joy, refresh, blank, line⟩ := only.named
    simp [dotActions, actionIf, Run.bind, plainAction, hd, eq_comm (a := s.dot), clear, init, oam, joy, refresh, blank,
      line]

/-- A stall does not look at the event whose callback is running. -/
theorem stallBegin_current (len : Nat) (e : Option EventId) (s : State) :
    { stallBegin len s with current := e } = stallBegin len { s with current := e } := by
  by_cases hl : len = 0
  · rw [hl]; rfl
  cases hq : (event s .dma).queued with
  | true => rw [stallBegin_dma hl hq, stallBegin_dma (s := { s with current := e }) hl hq]; rfl
  | false => rw [stallBegin_idle hl hq, stallBegin_idle (s := { s with current := e }) hl hq]; rfl

/-- R351, R353: a tick within a scanline, the comparator off, with one action or none, neither DMA's nor the
auto-joypad's. -/
theorem exec_evVideo_plain {s u : State} {k : Nat} (can : CanFire .video s) (off : irqMode s = 0)
    (inLine : s.dot + 1 ≠ s.cfg.dots) (only : OnlyDot s.cfg (s.dot + 1) k) (plain : k ≠ 1 ∧ k ≠ 3 ∧ k ≠ 6)
    (ends : { plainAction (tickMoved s) k with current := none } = u) :
    exec .evVideo s = .next (scheduleAt .video ((event s .video).when + s.cfg.dotCycles) u) := by
  rw [← ends]
  exact exec_evVideo_of_actions can off inLine
    (dotActions_plain (s := tickMoved s) _ (Nat.succ_ne_zero _) only plain)

/-- Settles O40: the tick is the action of its dot (`dotActions_plain`) between the move of the counters and the
requeueing. -/
theorem ticksComplete : Obligations.TicksComplete := by
  intro s can off inLine _ moved next
  refine ⟨fun only => ?_, fun only => ?_, fun only vblank => ?_, fun only => ?_, fun only visible => ?_,
    fun only hidden => ?_⟩ <;> refine exec_evVideo_plain can off inLine only (by decide) ?_
  · rfl
  · rfl
  · exact congrArg (setCurrent none) (if_pos vblank)
  · exact stallBegin_current s.cfg.refreshCycles none (tickMoved s)
  · exact congrArg (setCurrent none) (if_pos visible)
  · exact congrArg (setCurrent none) (if_neg (Nat.not_lt.2 hidden))

end Sys2Proof.Machine
end

section
/-! SUPPORT. The host's loops over run-loop steps: how every step counts the vertical blank entries, where RUN_FRAME's
loop ends, and RUN_INSTRUCTION over one request. -/

namespace Sys2Proof.Machine

/-! ### Vertical blank entries through the run loop -/

/-- From `s` to `t` no counted frame is lost, and the frame gets done only by an entry that is counted (R362). -/
structure FrameCounts (s t : State) : Prop where
  count : s.frameCounter ≤ t.frameCounter
  done  : t.frameDone = true → s.frameDone = true ∨ s.frameCounter < t.frameCounter

theorem FrameCounts.of_eq {s t : State} (counter : t.frameCounter = s.frameCounter)
    (flag : t.frameDone = s.frameDone) : FrameCounts s t :=
  ⟨Nat.le_of_eq counter.symm, fun done => .inl (flag ▸ done)⟩

theorem FrameCounts.refl (s : State) : FrameCounts s s := .of_eq rfl rfl

theorem FrameCounts.trans {s t u : State} (h : FrameCounts s t) (g : FrameCounts t u) : FrameCounts s u :=
  ⟨h.count.trans g.count, fun done => (g.done done).elim
    (fun earlier => (h.done earlier).imp_right fun counted => Nat.lt_of_lt_of_le counted g.count)
    fun counted => .inr (Nat.lt_of_le_of_lt h.count counted)⟩

theorem FrameCounts.of_cpu {s t : State} (k : CpuKeeps s t) : FrameCounts s t := by
  have kept {α : Type} (f : State → α) : f (blankCpu t) = f (blankCpu s) := congrArg f k.rest
  exact .of_eq (kept State.frameCounter) (kept State.frameDone)

/-- Every end of a part of the run loop counts its vertical blank entries, but that a fault is only a fault. -/
abbrev FrameRun {α : Type} (s : State) (r : Run α) : Prop := Run.Sat (FrameCounts s) (fun t => t.fault ≠ none) r

/-- An access, with what the CPU does with its cost and its byte, counts no entry. -/
theorem access_frame {α : Type} {s : State} {r : Run α} (h : CpuSat s r) {k : α → State → State}
    (hk : ∀ a t, FrameCounts t (k a t)) : FrameRun s (r.bind fun a t => .ok () (k a t)) := by
  refine Run.Sat.bind h (fun a t c => (FrameCounts.of_cpu c.1).trans (hk a t)) ?_
  rintro t ⟨-, f, fault, -⟩
  simp [fault]

/-- R183 to R192: a bus operation counts no entry. -/
theorem performOp_frame (i : Instr) (s : State) : FrameRun s (performOp i s) := by
  cases i with
  | fetch a | readOperand a | memoryLoad a | dummyRead a =>
    exact access_frame (memRead_sat a s) fun _ _ => .of_eq rfl rfl
  | memoryStore a v => exact access_frame (memWrite_sat a v s) fun _ _ => .of_eq rfl rfl
  | idle | halt | stop | nmiAck => exact FrameCounts.of_eq rfl rfl
  | _ => exact True.intro

theorem performNext_frame (s : State) : FrameRun s (performNext s) := by
  have sampled : FrameCounts s (takeInterrupt s) := .of_eq (by simp) (by simp)
  unfold performNext
  split
  · exact (performOp_frame _ _).bind
      (fun _ t k => (sampled.trans k).trans (.of_eq (cpuAdvance_frameCounter t) (cpuAdvance_frameDone t))) fun _ => id
  · exact True.intro

/-- The entries an Advance counts are those of the ticks it drains (R168, R362). -/
theorem advance_frame (n : Nat) (s : State) : FrameRun s (advance n s) :=
  ((advance_sat n s).and (advance_ends n s)).mono (fun _ h => ⟨h.1.1.count, h.1.1.done⟩) fun _ h => h.2.2

theorem bulkAdvance_frame (s : State) : FrameRun s (bulkAdvance s) := by
  unfold bulkAdvance
  split
  · exact Option.some_ne_none _
  · exact advance_frame _ s

/-- R197, R362: a run-loop step counts the vertical blank entries it comes to, or ends in the fault state. -/
theorem runStep_frame (s : State) : FrameRun s (runStep s) := by
  unfold runStep
  split
  · exact FrameCounts.refl s
  split
  · exact Option.some_ne_none _
  split
  · exact advance_frame _ s
  split
  · exact FrameCounts.of_eq rfl rfl
  split
  · exact performNext_frame s
  · exact bulkAdvance_frame s

/-! ### The loop of RUN_FRAME -/

/-- The frame is done or the block is in the fault state: RUN_FRAME's loop ends (R392). -/
abbrev FrameOver (s : State) : Prop := s.frameDone = true ∨ s.fault ≠ none

theorem frameOver_iff (s : State) : (s.frameDone || s.fault.isSome) = true ↔ FrameOver s := by
  rw [Bool.or_eq_true, Option.isSome_iff_ne_none]

theorem frameLoop_over (k : Nat) {s : State} (ended : FrameOver s) : frameLoop k s = .ok () s := by
  have ends := (frameOver_iff s).2 ended
  cases k <;> exact if_pos ends

/-- The loop of RUN_FRAME goes on to an end of the frame or a fault, and raises none itself (R392). -/
theorem frameLoop_ends (k : Nat) (s : State) :
    Run.Sat FrameOver (fun t => t.fault ≠ none) (frameLoop k s) := by
  induction k generalizing s with
  | zero =>
    unfold frameLoop
    split
    · exact (frameOver_iff s).1 ‹_›
    · exact True.intro
  | succ k ih =>
    unfold frameLoop
    split
    · exact (frameOver_iff s).1 ‹_›
    · exact (runStep_frame s).bind (fun _ t _ => ih t) fun _ => id

theorem frameLoop_frame (k : Nat) (s : State) : FrameRun s (frameLoop k s) :=
  frameLoop_sat (fun u h => (runStep_frame u).mono (fun _ => h.trans) fun _ => id) k s (.refl s)

/-- Run-loop steps that lead from a frame not done to an end of it are the loop's, if it has the fuel (R392). -/
theorem frameLoop_of_steps {k : Nat} {s t : State} (steps : Steps (fun u => u.frameDone = false ∧ Live u) k s t)
    (ended : FrameOver t) {n : Nat} (fuel : k ≤ n) : (frameLoop n s).outcome = .next t := by
  induction steps generalizing n with
  | done s => rw [frameLoop_over n ended]; rfl
  | @more k s m t busy step rest ih =>
    obtain ⟨pending, live⟩ := busy
    obtain ⟨n, rfl⟩ : ∃ j, n = j + 1 := ⟨n - 1, by omega⟩
    have ends := runStep_frame s
    rw [frameLoop_step live pending]
    rcases Run.outcome_next step with stepped | faulted
    · rw [stepped]
      exact ih ended (Nat.le_of_succ_le_succ fuel)
    · rw [faulted] at ends ⊢
      cases rest with
      | done => rfl
      | more busy => exact absurd busy.2 ends

/-- Settles O52: the steps given are those of the loop (`frameLoop_of_steps`), and a loop that ends live has come to the
end of the frame, which only an entry counted on the way has set (`frameLoop_frame`). -/
theorem runFrameRepeatsStep : Obligations.RunFrameRepeatsStep := by
  refine ⟨fun k s t live hp fuel steps ended => ?_, fun s t live hp ht liveNext => ?_⟩
  · rw [exec_runFrame_live live hp]
    exact frameLoop_of_steps steps ended fuel
  · rw [exec_runFrame_live live hp] at ht
    have ends := (frameLoop_ends callFuel (frameStart s)).and (frameLoop_frame callFuel (frameStart s))
    rcases Run.outcome_next ht with hr | hr <;> rw [hr] at ends
    · obtain ⟨ended, counts⟩ := ends
      have done : t.frameDone = true := ended.resolve_right (not_not.2 liveNext)
      exact ⟨done, (counts.done done).resolve_left Bool.false_ne_true⟩
    · exact absurd liveNext ends.1

/-! ### RUN_INSTRUCTION -/

/-- RUN_INSTRUCTION of a CPU that is not running is one step (R393). -/
theorem exec_runInstruction_notRunning {s : State} (live : Live s) (hp : s.paused = false)
    (idle : s.cpuState ≠ .running) : exec .runInstruction s = exec .stepOnce s := by
  simp [exec, execRunInstruction, execStepOnce, live, hp, idle]

theorem exec_runInstruction_running {s : State} (live : Live s) (hp : s.paused = false)
    (running : s.cpuState = .running) : exec .runInstruction s = (instructionLoop callFuel false s).outcome := by
  simp [exec, execRunInstruction, live, hp, running]

/-- At a boundary with an operation performed the loop of RUN_INSTRUCTION ends (R393). -/
theorem instructionLoop_boundary (k : Nat) {s : State} (boundary : (presented s).atFetch = true) :
    instructionLoop k true s = .ok () s := by
  cases k <;> simp [instructionLoop, instructionOver, boundary]

/-- With no operation performed the loop goes on with a run-loop step, which performs one if it has the grant (R393). -/
theorem instructionLoop_first {k : Nat} {s : State} (granted : granted s = true) :
    instructionLoop (k + 1) false s = (runStep s).bind fun _ t => instructionLoop k true t := by
  have live : s.fault = none := ((granted_iff s).1 granted).1
  simp [instructionLoop, instructionOver, live, granted]

/-- A granted step that leads to an instruction boundary is the whole of RUN_INSTRUCTION (R393). -/
theorem exec_runInstruction_of_step {s t : State} (hp : s.paused = false) (hg : granted s = true)
    (step : exec .stepOnce s = .next t) (boundary : (presented t).atFetch = true) :
    exec .runInstruction s = .next t := by
  obtain ⟨live, running, -⟩ := (granted_iff s).1 hg
  obtain ⟨n, calls⟩ : ∃ n, callFuel = n + 1 := ⟨2 ^ 64 - 1, by decide⟩
  rw [exec_runInstruction_running live hp running, calls, instructionLoop_first hg]
  rcases Run.outcome_next step with stepped | faulted
  · rw [stepped, Run.bind, instructionLoop_boundary n boundary]
    rfl
  · rw [faulted]
    rfl

/-- The word of an IDLE (R121, R189). -/
theorem decode_idleWord : decode ⟨.busop, (0x500000000 : BitVec 36).setWidth 64⟩ = .ok .idle := by decide

/-- Settles O54: the granted STEP performs the IDLE, and the next request of the stream is a boundary. -/
theorem runInstructionCompletes : Obligations.RunInstructionCompletes := by
  refine fun s live hp => ⟨exec_runInstruction_notRunning live hp, fun r next rest hb hg port script word fetch => ?_⟩
  have idle := (idleHaltStopAck s live).1
  have step :=
    (stepPerformsTheRequest.1 s _ r (next :: rest) .idle hb hg (word ▸ decode_idleWord) idle live).2 port script
  have boundary : next.atFetch = true := beq_iff_eq.2 fetch
  refine exec_runInstruction_of_step hp hg step ?_
  rw [presented_script (by exact port) rfl]
  exact boundary

end Sys2Proof.Machine
end

section
/-! SUPPORT. A request of the NMI through an instruction: what may raise it but does not clear it (R417, R418). -/

namespace Sys2Proof.Machine

/-- A request of the NMI in `s` stands in `t`. -/
abbrev RequestStays (s t : State) : Prop := s.nmiRequest = true → t.nmiRequest = true

/-- At every end of a part of an operation a request it began with stands, a block fault included. -/
abbrev RequestSat {α : Type} (s : State) (r : Run α) : Prop := Run.Sat (RequestStays s) (RequestStays s) r

theorem RequestSat.of_cpu {α : Type} {s : State} {r : Run α} (h : CpuSat s r) : RequestSat s r :=
  h.mono (fun _ k => k.1.request) fun _ k => k.1.request

/-- R183 to R192: of the bus operations only NMI_ACK clears a request. -/
theorem performOp_request {i : Instr} (notAck : i ≠ .nmiAck) (s : State) : RequestSat s (performOp i s) := by
  cases i with
  | fetch a | readOperand a | memoryLoad a | dummyRead a =>
    exact (RequestSat.of_cpu (memRead_sat a s)).bind (fun _ _ stays => stays) fun _ => id
  | memoryStore a v => exact (RequestSat.of_cpu (memWrite_sat a v s)).bind (fun _ _ stays => stays) fun _ => id
  | nmiAck => exact absurd rfl notAck
  | idle | halt | stop => exact id
  | _ => exact True.intro

/-- No callback clears a request (R168, R418). -/
theorem fireEvent_request (e : EventId) (s : State) : RequestSat s (fireEvent e s) :=
  (fireEvent_keeps e s).mono (fun _ => CallbackKeeps.request) fun _ => CallbackKeeps.request

/-- No Advance clears a request, and the fault it can begin with leaves it too (R168, R418). -/
theorem advance_request (n : Nat) (s : State) : RequestSat s (advance n s) := by
  refine (advance_sat n s).mono (fun _ ⟨keeps, _⟩ => keeps.request) fun t ends => ?_
  rcases ends with ⟨keeps, -⟩ | ⟨-, below⟩
  · exact keeps.request
  · cases below
    exact id

theorem RequestSat.replyDelay {s : State} {r : Run Unit} (h : RequestSat s r) : RequestSat s (replyDelay r) := by
  cases r <;> exact h

theorem execAdvance_request {n : BitVec 48} {s t : State} (h : execAdvance n s = .next t) : RequestStays s t := by
  unfold execAdvance at h
  split at h
  · cases h
    exact id
  · exact (advance_request n.toNat s).replyDelay.of_next h

theorem CommandKeeps.request {s t : State} (k : CommandKeeps s t) : RequestStays s t := by
  have e := congrArg State.nmiRequest k
  exact e.trans

/-- Settles O34: by the kind of the instruction, every end of its parts keeps a request. -/
theorem nmiRequestStays : Obligations.NmiRequestStays := by
  intro i s t notAck notReset notStep notFrame notInstruction h
  have ends {r : Run Unit} (h : unlessFaulted s r = .next t) (hr : RequestSat s r) : RequestStays s t :=
    sat_of_unlessFaulted h id hr
  cases instrKind i with
  | busop hb =>
    rw [exec_of_isBusop hb] at h
    exact ends h (performOp_request notAck s)
  | read bank r =>
    rw [exec_readRow] at h
    exact ends h ((blockRead_keeps r s).1.drive _).request
  | write bank r =>
    rw [exec_writeRow] at h
    exact ends h (blockWrite_keeps _ _ r s).1.request
  | command hc =>
    by_cases advances : ∃ n, i = .advance n
    · obtain ⟨n, rfl⟩ := advances
      exact execAdvance_request h
    · exact (execCommand_keeps hc notReset (not_exists.1 advances) notStep notFrame notInstruction h).request
  | event e =>
    rw [exec_eventRow] at h
    exact ends h (fireEvent_request e s)

end Sys2Proof.Machine
end

section
/-! SUPPORT. The H/V comparator after a tick: its match by the mode, and EV_IRQ as the actions of the dot leave it. -/

namespace Sys2Proof.Machine

/-- R419: the match of each mode. -/
theorem irqMatch_iff (s : State) :
    irqMatch s = true ↔ (irqMode s = 1 ∧ s.dot = s.htime.toNat) ∨
      (irqMode s = 2 ∧ s.scanline = s.vtime.toNat ∧ s.dot = 0) ∨
      (irqMode s = 3 ∧ s.scanline = s.vtime.toNat ∧ s.dot = s.htime.toNat) := by
  unfold irqMatch
  generalize irqMode s = m
  match m with
  | 0 | 1 | 2 | 3 => simp

/-- R419, R420: where the comparator matches, EV_IRQ is queued for the latency after the tick's own time. -/
theorem irqCompare_match (t0 : Nat) {s : State} (h : irqMatch s = true) :
    irqCompare t0 s = scheduleAt .irq (t0 + s.cfg.irqLatency) s := if_pos h

theorem irqCompare_noMatch (t0 : Nat) {s : State} (h : ¬ irqMatch s = true) : irqCompare t0 s = s := if_neg h

/-- R351: a tick that goes on is the actions of its dot, then the comparator, then the requeueing of EV_VIDEO. -/
theorem exec_evVideo_compared {s t : State} (can : CanFire .video s) (ht : exec .evVideo s = .next t) (live : Live t) :
    ∃ u, DotKeeps (tickStart s) u ∧
      t = setCurrent none (scheduleAt .video ((event s .video).when + u.cfg.dotCycles)
        (irqCompare (event s .video).when u)) := by
  rw [exec_evVideo can, advancePosition_fired] at ht
  have ends := dotActions_sat (event s .video).when (tickStart s)
  generalize dotActions (event s .video).when (tickStart s) = r at ht ends
  cases r with
  | ok _ u =>
    cases ht
    exact ⟨u, ends.1, rfl⟩
  | raised u =>
    cases ht
    obtain ⟨-, f, fault, -⟩ := ends
    exact absurd (fault.symm.trans live) (Option.some_ne_none f)
  | stuck f => cases ht
  | refused r => cases ht

/-- Settles O36: the actions of the dot leave the mode, the targets and EV_IRQ as they were, so the comparator decides by
the new position (`irqMatch_iff`). -/
theorem irqComparator : Obligations.IrqComparator := by
  intro s t can ht live m hit
  have tick := ticked_of_exec can ht live
  obtain ⟨dot, scanline, -⟩ := tick.position
  obtain ⟨u, keeps, compared⟩ := exec_evVideo_compared can ht live
  have kept {α : Type} (f : State → α) : f (blankTick u) = f (blankTick (tickStart s)) := congrArg f keeps.rest
  have here : hit ↔ irqMatch u = true := by
    have mode : irqMode u = irqMode s := kept irqMode
    have htime : u.htime = s.htime := kept State.htime
    have vtime : u.vtime = s.vtime := kept State.vtime
    have atDot : u.dot = t.dot := (kept State.dot).trans dot.symm
    have atLine : u.scanline = t.scanline := (kept State.scanline).trans scanline.symm
    rw [irqMatch_iff, mode, htime, vtime, atDot, atLine]
    rfl
  have irq : event t .irq = event (irqCompare (event s .video).when u) .irq := by
    rw [compared]
    exact event_scheduleAt_other (f := .irq) _ _ nofun
  rw [here, irq]
  refine ⟨fun matched => ?_, fun missed => ?_⟩
  · have cfg : u.cfg = s.cfg := kept State.cfg
    rw [irqCompare_match _ matched, event_scheduleAt_same, cfg]
    exact ⟨rfl, rfl⟩
  · rw [irqCompare_noMatch _ missed, keeps.irq]
    exact event_deschedule_other (f := .irq) s nofun

end Sys2Proof.Machine
end
